-- ==== Sys2Proof/Word.lean ====
section
/-! DEFINITION. The word types: bytes and the three encoded words of 30_encoding.md R45. -/

namespace Sys2Proof

/-- A port byte, or the 8-bit input word of a cycle (R7, R23, R24, R46). -/
abbrev Byte := BitVec 8

/-- A 4-bit value: an LED index, a ring position or a draw (R13, R14, R49, R50). -/
abbrev Nibble := BitVec 4

/-- The three encoded words of R45: the cycle input word (format CYC), the state code (format ST) and the
LED command (format LED). -/
inductive EncWord where
  | cyc (w : Byte)
  | st  (code : BitVec 2)
  | led (cmd : BitVec 5)
  deriving DecidableEq, Repr

/-- The byte with only bit `n` set (R80: `1 << n`); zero when `n` is 8 or more. -/
def bitByte (n : Nat) : Byte := 1#8 <<< n

end Sys2Proof
end

