-- ==== Sys2Proof/Config.lean ====
section
/-! DEFINITION. The parameter record P of 00_scope.md R5, its two example instantiations REF and SMALL, the
free input, and the host parameter WAKE_EDGE. -/

namespace Sys2Proof

/-- `N_LED`: 16, fixed, not a free parameter (R5). -/
def nLed : Nat := 16

/-- One entry of the LED table: the numbers of the multiplexed pins driven high and low to light the LED (R31). -/
structure LedEntry where
  drive : Nat
  sink  : Nat
  deriving DecidableEq, Repr

/-- The parameter record P (R5), one field per row of its table. `N_LED` is the constant `nLed`. The values of R6
item (5) that are single bits or ring positions have types that hold nothing else. -/
structure Params where
  /-- `TH`, the debounce threshold. -/
  th : Nat
  /-- `MAX_STAGE`. -/
  maxStage : Nat
  /-- `BASE_PERIOD`. -/
  basePeriod : Nat
  /-- `STEP_PER_STAGE`. -/
  stepPerStage : Nat
  /-- `MIN_PERIOD`. -/
  minPeriod : Nat
  /-- `SPIN_PERIOD`. -/
  spinPeriod : Nat
  /-- `PASS_THRESHOLD`. -/
  passThreshold : Nat
  /-- `DISP_MOD`. -/
  dispMod : Nat
  /-- `DISP_TARGET_TICKS`. -/
  dispTargetTicks : Nat
  /-- `FAIL_TICKS`. -/
  failTicks : Nat
  /-- `FAIL_BLINK_BIT`. -/
  failBlinkBit : Nat
  /-- `WIN_TICKS`. -/
  winTicks : Nat
  /-- `WIN_BLINK_BIT`. -/
  winBlinkBit : Nat
  /-- `WIN_SWEEP_LSB`. -/
  winSweepLsb : Nat
  /-- `IDLE_TIMEOUT`. -/
  idleTimeout : Nat
  /-- `CURSOR_HOME`, a ring position. -/
  cursorHome : Nibble
  /-- `DIR_RESET`; false is 0, forward. -/
  dirReset : Bool
  /-- `N_MUX`. -/
  nMux : Nat
  /-- `MUX_BIT[k]`, for k in [0, N_MUX). -/
  muxBit : List Nat
  /-- `BTN_BIT`. -/
  btnBit : Nat
  /-- `BTN_DDR_RESET`. -/
  btnDdrReset : Bool
  /-- `BTN_PORT_RESET`. -/
  btnPortReset : Bool
  /-- `LED_TABLE[i]`, for i in [0,16). -/
  ledTable : Vector LedEntry 16
  /-- `STAGE_W`. -/
  stageW : Nat
  /-- `PHASE_W`. -/
  phaseW : Nat
  /-- `IDLE_W`. -/
  idleW : Nat
  /-- `PASS_W`. -/
  passW : Nat
  /-- `CNT_W`. -/
  cntW : Nat
  deriving DecidableEq, Repr

/-- The stand-in LED table of R31, "the spec's invention": nothing follows from it about the real wiring (log 2). -/
def standInTable : Vector LedEntry 16 :=
  #v[⟨0, 1⟩, ⟨1, 0⟩, ⟨0, 2⟩, ⟨2, 0⟩, ⟨0, 3⟩, ⟨3, 0⟩, ⟨0, 4⟩, ⟨4, 0⟩,
     ⟨1, 2⟩, ⟨2, 1⟩, ⟨1, 3⟩, ⟨3, 1⟩, ⟨1, 4⟩, ⟨4, 1⟩, ⟨2, 3⟩, ⟨3, 2⟩]

/-- REF, the spec's reference values (R5, column REF). -/
def Params.ref : Params where
  th := 10
  maxStage := 15
  basePeriod := 100
  stepPerStage := 8
  minPeriod := 10
  spinPeriod := 30
  passThreshold := 2
  dispMod := 4
  dispTargetTicks := 1
  failTicks := 2000
  failBlinkBit := 7
  winTicks := 4000
  winBlinkBit := 4
  winSweepLsb := 6
  idleTimeout := 40000
  cursorHome := 8
  dirReset := false
  nMux := 5
  muxBit := [0, 1, 2, 3, 4]
  btnBit := 5
  btnDdrReset := false
  btnPortReset := true
  ledTable := standInTable
  stageW := 5
  phaseW := 16
  idleW := 16
  passW := 4
  cntW := 5

/-- SMALL, the spec's tiny values (R5, column SMALL). -/
def Params.small : Params :=
  { Params.ref with
    th := 2, maxStage := 1, basePeriod := 3, stepPerStage := 2, minPeriod := 1, spinPeriod := 0,
    passThreshold := 0, failTicks := 3, failBlinkBit := 0, winTicks := 5, winBlinkBit := 0,
    winSweepLsb := 1, idleTimeout := 12 }

/-- The free input: the word the host presents in a cycle for which `State.inputs` lists none (R4, R137: the host may
present any word in any cycle). Nothing constrains it (log 6). -/
opaque Config.freeInput : Nat → Byte

/-- `WAKE_EDGE`, the host's parameter (R119, 93 U14): which edge of the button pin qualifies. Nothing of the block
depends on it; the duty H_WAKE_ONCE does. -/
inductive WakeEdge where
  | press
  | release
  deriving DecidableEq, Repr

end Sys2Proof
end

