-- ==== Sys2Proof/Syntax.lean ====
section
/-! DEFINITION. The operations with an encoding (30_encoding.md R54), one constructor per row of
spec/opcode_table.json, and what a decoder needs besides the word. -/

namespace Sys2Proof

/-- The four game states (R11). The binary codes are `GameState.code` of Decode.lean. -/
inductive GameState where
  | init
  | active
  | fail
  | win
  deriving DecidableEq, Repr

/-- The eleven operations of R54. The operands are those the operation uses: `ovfSet`, `btnN` and `r` are fields of
the input word (R46), `press` and the `r` of a step operation are wires of the TICK that runs it (R63, R93), and
`idx` is the index of the LED command (R49). -/
inductive Instr where
  /-- RESET, CYC `1xxxrrrr` (R140). -/
  | reset (r : Nibble)
  /-- WAKE, CYC `01sxrrrr` (R118). -/
  | wake (ovfSet : Bool) (r : Nibble)
  /-- HOLD, CYC `00sxxxxx` while asleep (R117). -/
  | hold (ovfSet : Bool)
  /-- TICK, CYC `0xsbrrrr` while running with an overflow pending (R63); `btnN` is the pin level, 0 = pressed. -/
  | tick (ovfSet btnN : Bool) (r : Nibble)
  /-- IDLE, CYC `0xsxxxxx` while running with none pending (R62). -/
  | idle (ovfSet : Bool)
  /-- STEP.INIT, ST `00` (R94). -/
  | stepInit (r : Nibble)
  /-- STEP.ACTIVE, ST `01` (R95). -/
  | stepActive (press : Bool) (r : Nibble)
  /-- STEP.FAIL, ST `10` (R100). -/
  | stepFail (r : Nibble)
  /-- STEP.WIN, ST `11` (R101). -/
  | stepWin (r : Nibble)
  /-- LED.SET i, LED `1iiii` (R80). -/
  | ledSet (idx : Nibble)
  /-- LED.OFF, LED `0xxxx` (R81). -/
  | ledOff
  deriving DecidableEq, Repr

/-- What selects an operation besides the encoded word: the flags `asleep` and `ovf` at the start of the cycle for
format CYC (R47), and for format ST the wires a TICK hands to its step operation (R63, R93). -/
structure DecodeCtx where
  asleep : Bool
  ovf    : Bool
  press  : Bool
  r      : Nibble
  deriving DecidableEq, Repr

/-- The format of an encoded word (R45). -/
inductive Format where
  | cyc
  | st
  | led
  deriving DecidableEq, Repr

/-- One row of the opcode table: format, width in bits, mask and match (R47, R48, R49). -/
structure OpcodeRow where
  format : Format
  width  : Nat
  mask   : Nat
  value  : Nat
  deriving DecidableEq, Repr

/-- Why a number is not an encoded word. No encoded word is illegal (R51), so only the number's size can be wrong. -/
inductive DecodeReject where
  /-- The number has bits beyond the width of its format. -/
  | wordTooWide
  /-- No format has that many bits (R45: 8, 2 and 5). -/
  | noSuchFormat
  /-- A cycle samples exactly one byte (R46). -/
  | notOneByte
  deriving DecidableEq, Repr

end Sys2Proof
end

