-- ==== Sys2Proof/WellFormed.lean ====
section
/-! DEFINITION. WF_PARAMS, WF_TABLE and INJ_TABLE (00_scope.md R6, 20_memory.md R31), and the type of well-formed
parameter records. An operation (`Instr`) needs no check: every value of its operands' types is legal (R37, R51). -/

namespace Sys2Proof

/-- `WF_TABLE(P)` (R31). -/
def Params.wfTable (P : Params) : Bool :=
  P.ledTable.toList.all fun e => decide (e.drive < P.nMux ∧ e.sink < P.nMux ∧ e.drive ≠ e.sink)

/-- `INJ_TABLE(P)` (R31): `WF_TABLE` and the 16 ordered pairs pairwise different. -/
def Params.injTable (P : Params) : Bool :=
  P.wfTable && decide P.ledTable.toList.Nodup

/-- R6 item (1). -/
def Params.wfThreshold (P : Params) : Bool := decide (1 ≤ P.th)

/-- R6 item (2). -/
def Params.wfPeriod (P : Params) : Bool := decide (1 ≤ P.minPeriod ∧ P.minPeriod ≤ P.basePeriod)

/-- R6 item (3). -/
def Params.wfDisplay (P : Params) : Bool :=
  decide (0 < P.dispTargetTicks ∧ 2 * P.dispTargetTicks < P.dispMod)

/-- R6 item (4). -/
def Params.wfPhaseBits (P : Params) : Bool :=
  decide (P.winSweepLsb + 3 < P.phaseW ∧ P.failBlinkBit < P.phaseW ∧ P.winBlinkBit < P.phaseW)

/-- R6 item (6), with the length R5 gives `MUX_BIT`. Item (5) holds by the types of its fields. -/
def Params.wfPins (P : Params) : Bool :=
  decide (P.muxBit.length = P.nMux ∧ P.muxBit.Nodup ∧ (∀ b ∈ P.muxBit, b < 8) ∧
    P.btnBit < 8 ∧ P.btnBit ∉ P.muxBit)

/-- R6 item (8): no counter can wrap. -/
def Params.wfWidths (P : Params) : Bool :=
  decide (P.idleTimeout + 1 < 2 ^ P.idleW ∧
    max (max P.spinPeriod P.basePeriod) (max P.failTicks P.winTicks) + 1 < 2 ^ P.phaseW ∧
    P.maxStage + 1 < 2 ^ P.stageW ∧ P.passThreshold + 1 < 2 ^ P.passW ∧ P.th < 2 ^ P.cntW)

/-- `WF_PARAMS(P)` (R6), items (1) to (8); item (5) is in the types. -/
def Params.wf (P : Params) : Bool :=
  P.wfThreshold && P.wfPeriod && P.wfDisplay && P.wfPhaseBits && P.wfPins && P.wfTable && P.wfWidths

/-- An instance of the spec: a parameter record with `WF_PARAMS`. "The model is defined only for well-formed records"
(R6); a record that fails the check cannot be put in a state (log 3). -/
structure Instance where
  params : Params
  ok     : params.wf = true
  deriving DecidableEq, Repr

/-- The instance with the REF values. -/
def Instance.ref : Instance := ⟨Params.ref, by decide⟩

/-- The instance with the SMALL values. -/
def Instance.small : Instance := ⟨Params.small, by decide⟩

end Sys2Proof
end

