-- ==== Sys2Proof/Decode.lean ====
section
/-! DEFINITION. The decoder of 30_encoding.md R46 to R49, the encoder written from the same rules, the opcode table's
rows, and the host's view of a table word. -/

namespace Sys2Proof

/-! ## Format CYC: fields of the cycle input word (R46) -/

def Cyc.rst (w : Byte) : Bool := w.getLsbD 7

def Cyc.wake (w : Byte) : Bool := w.getLsbD 6

def Cyc.ovfSet (w : Byte) : Bool := w.getLsbD 5

/-- The level of the button pin: false is 0, pressed. -/
def Cyc.btnN (w : Byte) : Bool := w.getLsbD 4

def Cyc.rnd (w : Byte) : Nibble := w.extractLsb' 0 4

/-- The input word with the given fields: `{rst, wake, ovf_set, btn_n, rnd}` (R46, R52). -/
def Cyc.word (rst wake ovfSet btnN : Bool) (rnd : Nibble) : Byte :=
  BitVec.ofBool rst ++ (BitVec.ofBool wake ++ (BitVec.ofBool ovfSet ++ (BitVec.ofBool btnN ++ rnd)))

/-! ## Format ST: the state code (R11, R48) -/

def GameState.code : GameState → BitVec 2
  | .init   => 0b00
  | .active => 0b01
  | .fail   => 0b10
  | .win    => 0b11

def GameState.ofCode (c : BitVec 2) : GameState :=
  if c = 0b00 then .init else if c = 0b01 then .active else if c = 0b10 then .fail else .win

/-! ## Format LED: the LED command (R49) -/

def Led.en (cmd : BitVec 5) : Bool := cmd.getLsbD 4

def Led.idx (cmd : BitVec 5) : Nibble := cmd.extractLsb' 0 4

/-- `LED.SET i` as a command word: `1iiii`. -/
def Led.set (i : Nibble) : BitVec 5 := 1#1 ++ i

/-- `LED.OFF` as a command word, canonical form `00000`. -/
def Led.off : BitVec 5 := 0b00000

/-! ## The decoder -/

/-- R47: the operation a cycle performs, from the word and the two flags at the start of the cycle; first match wins. -/
def decodeCyc (asleep ovf : Bool) (w : Byte) : Instr :=
  if Cyc.rst w then .reset (Cyc.rnd w)
  else if asleep then
    if Cyc.wake w then .wake (Cyc.ovfSet w) (Cyc.rnd w) else .hold (Cyc.ovfSet w)
  else
    if ovf then .tick (Cyc.ovfSet w) (Cyc.btnN w) (Cyc.rnd w) else .idle (Cyc.ovfSet w)

/-- R48, R93: the step operation of a tick; `press` and `r` are the tick's wires. -/
def decodeSt (code : BitVec 2) (press : Bool) (r : Nibble) : Instr :=
  match GameState.ofCode code with
  | .init   => .stepInit r
  | .active => .stepActive press r
  | .fail   => .stepFail r
  | .win    => .stepWin r

/-- R49, R51: the LED command; all 15 non-canonical words `0xxxx` are LED.OFF. -/
def decodeLed (cmd : BitVec 5) : Instr :=
  if Led.en cmd then .ledSet (Led.idx cmd) else .ledOff

/-- The decoder over the three formats. It is total: no encoded word is illegal (R51). -/
def decode (c : DecodeCtx) : EncWord → Instr
  | .cyc w    => decodeCyc c.asleep c.ovf w
  | .st code  => decodeSt code c.press c.r
  | .led cmd  => decodeLed cmd

/-- The decoder on the bytes a cycle presents: exactly one (R46), anything else is rejected by name. -/
def decodeBytes (asleep ovf : Bool) : List Byte → Except DecodeReject Instr
  | [w] => .ok (decodeCyc asleep ovf w)
  | _   => .error .notOneByte

/-! ## The encoder -/

/-- The word of an operation (R46 to R49). Fields the operation ignores are written 0 (log 16); the wires of a step
operation are no part of its word (log 11). -/
def encode : Instr → EncWord
  | .reset r       => .cyc (Cyc.word true false false false r)
  | .wake o r      => .cyc (Cyc.word false true o false r)
  | .hold o        => .cyc (Cyc.word false false o false 0)
  | .tick o b r    => .cyc (Cyc.word false false o b r)
  | .idle o        => .cyc (Cyc.word false false o false 0)
  | .stepInit _    => .st 0b00
  | .stepActive .. => .st 0b01
  | .stepFail _    => .st 0b10
  | .stepWin _     => .st 0b11
  | .ledSet i      => .led (Led.set i)
  | .ledOff        => .led Led.off

/-- The context in which the operation's row is the one selected: the conditions of R47 for format CYC, and for format
ST that the tick's wires carry the operands. -/
def Instr.selectedBy (c : DecodeCtx) : Instr → Bool
  | .reset _        => true
  | .wake ..        => c.asleep
  | .hold _         => c.asleep
  | .tick ..        => !c.asleep && c.ovf
  | .idle _         => !c.asleep && !c.ovf
  | .stepInit r     => decide (c.r = r)
  | .stepActive p r => decide (c.press = p ∧ c.r = r)
  | .stepFail r     => decide (c.r = r)
  | .stepWin r      => decide (c.r = r)
  | .ledSet _       => true
  | .ledOff         => true

/-- The word's bits as a number, bit 0 the least significant (R7). -/
def EncWord.toNat : EncWord → Nat
  | .cyc w  => BitVec.toNat w
  | .st c   => BitVec.toNat c
  | .led c  => BitVec.toNat c

def EncWord.format : EncWord → Format
  | .cyc _ => .cyc
  | .st _  => .st
  | .led _ => .led

/-- The operation's row of spec/opcode_table.json. -/
def opcodeRow : Instr → OpcodeRow
  | .reset _       => ⟨.cyc, 8, 0x80, 0x80⟩
  | .wake ..       => ⟨.cyc, 8, 0xC0, 0x40⟩
  | .hold _        => ⟨.cyc, 8, 0xC0, 0x00⟩
  | .tick ..       => ⟨.cyc, 8, 0x80, 0x00⟩
  | .idle _        => ⟨.cyc, 8, 0x80, 0x00⟩
  | .stepInit _    => ⟨.st, 2, 0x3, 0x0⟩
  | .stepActive .. => ⟨.st, 2, 0x3, 0x1⟩
  | .stepFail _    => ⟨.st, 2, 0x3, 0x2⟩
  | .stepWin _     => ⟨.st, 2, 0x3, 0x3⟩
  | .ledSet _      => ⟨.led, 5, 0x10, 0x10⟩
  | .ledOff        => ⟨.led, 5, 0x10, 0x00⟩

/-- The bits of the input word the operation uses, those that select it among them (R47, R51): every other bit is
ignored. Zero for an operation of another format. -/
def careMask : Instr → Byte
  | .reset _ => 0x8F
  | .wake .. => 0xEF
  | .hold _  => 0xE0
  | .tick .. => 0xBF
  | .idle _  => 0xA0
  | .stepInit _ | .stepActive .. | .stepFail _ | .stepWin _ | .ledSet _ | .ledOff => 0x00

/-! ## The host's view of a table word -/

/-- A number read as an encoded word: the count of its bits names the format (R45). -/
def encWordOfNat (nbits w : Nat) : Except DecodeReject EncWord :=
  if nbits = 8 then
    if w < 2 ^ 8 then .ok (.cyc (BitVec.ofNat 8 w)) else .error .wordTooWide
  else if nbits = 2 then
    if w < 2 ^ 2 then .ok (.st (BitVec.ofNat 2 w)) else .error .wordTooWide
  else if nbits = 5 then
    if w < 2 ^ 5 then .ok (.led (BitVec.ofNat 5 w)) else .error .wordTooWide
  else .error .noSuchFormat

/-- The flags in which a table word is read: those of R47 under which a word with `rst = 0` does more than latch its
overflow, asleep for a word with `wake = 1` (WAKE) and running with an overflow pending for the others (TICK). The
wires of a step operation are no press and draw 0 (log 8). -/
def tableCtx : EncWord → DecodeCtx
  | .cyc w => ⟨!Cyc.rst w && Cyc.wake w, !Cyc.rst w && !Cyc.wake w, false, 0⟩
  | .st _  => ⟨false, true, false, 0⟩
  | .led _ => ⟨false, true, false, 0⟩

/-- What the decoder reads from a table word. The count of bits names the format: 8 CYC, 2 ST, 5 LED (log 8). -/
def decodeTableWord (nbits w : Nat) : Option Instr :=
  match encWordOfNat nbits w with
  | .ok e    => some (decode (tableCtx e) e)
  | .error _ => none

end Sys2Proof
end

