-- ==== Sys2Proof/Machine/State.lean ====
section
/-! DEFINITION. The state of the block (10_state.md R10), the reasons a step could stop, and the state after reset. -/

namespace Sys2Proof.Machine

open Sys2Proof

/-- ButtonState (R19 to R22): the register file of the Input Debouncer. -/
structure ButtonState where
  /-- `btn.raw` (R19): the level sampled at the last tick, true = pressed; nothing reads it. -/
  raw  : Bool
  /-- `btn.cnt` (R20). -/
  cnt  : Nat
  /-- `btn.filt` (R21): the debounced level. -/
  filt : Bool
  /-- `btn.prev` (R22): `filt` at the end of the previous tick. -/
  prev : Bool
  deriving DecidableEq, Repr

/-- The 16 registers of R10, and three fields of the model's own: the instance (log 1), the input words the host has
lined up and the number of free input words read so far (log 6). Counters are natural numbers, as R150 allows (log 4). -/
structure State where
  /-- The parameter record P with `WF_PARAMS`; a constant of the instance (R5, R6). -/
  inst      : Instance
  /-- `state` (R11), the sequencer. -/
  state     : GameState
  /-- `stage` (R12). -/
  stage     : Nat
  /-- `cursor` (R13). -/
  cursor    : Nibble
  /-- `target` (R14). -/
  target    : Nibble
  /-- `dir` (R15): false = 0 = forward. -/
  dir       : Bool
  /-- `phase` (R16). -/
  phase     : Nat
  /-- `idle` (R17). -/
  idle      : Nat
  /-- `pass` (R18). -/
  pass      : Nat
  /-- ButtonState (R19 to R22). -/
  btn       : ButtonState
  /-- `ddr` (R23), the direction byte. -/
  ddr       : Byte
  /-- `port` (R24), the level byte. -/
  port      : Byte
  /-- `ovf` (R25), the overflow-pending flag. -/
  ovf       : Bool
  /-- `asleep` (R26). -/
  asleep    : Bool
  /-- The input words of the coming cycles, the next one first (R4, R46). -/
  inputs    : List Byte
  /-- How many words of `Config.freeInput` have been read. -/
  freeReads : Nat
  deriving DecidableEq, Repr

/-- The parameter record of the state's instance. -/
abbrev State.P (s : State) : Params := s.inst.params

/-- Faults: none. "No operation of this hardware raises an exception" (R8); "the model must not add a fault for it"
(R125). The type is empty, so no step can answer a fault (log 17). -/
inductive Fault where
  deriving DecidableEq, Repr

/-- Refusals. -/
inductive Refusal where
  /-- An arm of `exec` for an operation that has no meaning yet; raised by no arm, since every operation has its
  meaning. Safe: it stops. -/
  | notModelled (mnemonic : String)
  deriving DecidableEq, Repr

/-- ButtonState after GAME_INIT: all zero (R28, R92). -/
def ButtonState.cleared : ButtonState := ⟨false, 0, false, false⟩

/-- The table of R28: the state after a RESET cycle with `rnd = r`, for any instance. -/
def State.resetOf (I : Instance) (r : Nibble) : State where
  inst      := I
  state     := .init
  stage     := 0
  cursor    := I.params.cursorHome
  target    := r
  dir       := I.params.dirReset
  phase     := 0
  idle      := 0
  pass      := 0
  btn       := ButtonState.cleared
  ddr       := if I.params.btnDdrReset then bitByte I.params.btnBit else 0
  port      := if I.params.btnPortReset then bitByte I.params.btnBit else 0
  ovf       := false
  asleep    := false
  inputs    := []
  freeReads := 0

/-- The machine right after reset: R28 for the REF instance (log 1), the draw being 0 (log 5), no input word lined up
(log 6). -/
def State.reset : State := State.resetOf Instance.ref 0

end Sys2Proof.Machine
end

