-- ==== Sys2Proof/Machine/Ops.lean ====
section
/-! DEFINITION. The primitives and shared subroutines of the pseudocode (00_scope.md R8): TableRead, PortWriteMasked,
GAME_INIT, SLEEP, and reading a cycle's input word. The spec has no exception entry and no return (R125, R129, R130),
so there is no such operation. -/

namespace Sys2Proof.Machine

open Sys2Proof

/-- `TableRead(i)` (R32): entry i of the instance's constant table; every 4-bit index is valid (R37). -/
def tableRead (P : Params) (i : Nibble) : LedEntry := P.ledTable[i.toNat]'i.isLt

/-- `TBL_W = ceil(log2(N_MUX))` (R31): the bits one pin number of a table entry is stored in. -/
def tblW (P : Params) : Nat := if P.nMux ≤ 1 then 0 else Nat.log2 (P.nMux - 1) + 1

/-- A table entry as the word `(d, s)` it is stored as, d in the high `TBL_W` bits (R31). -/
def entryWord (P : Params) (e : LedEntry) : Nat := e.drive * 2 ^ tblW P + e.sink

/-- `MUX_BIT[k]` (R5, R39). The second branch is met by no pin number below N_MUX. -/
def muxBitOf (P : Params) (k : Nat) : Nat :=
  match P.muxBit[k]? with
  | some b => b
  | none   => 8

/-- `MUX_MASK` (00_scope.md section 9): a 1 at every `MUX_BIT[k]`, 0 elsewhere. -/
def muxMask (P : Params) : Byte := P.muxBit.foldr (fun b m => bitByte b ||| m) 0

/-- `PortWriteMasked(mask, dval, pval)` (R33): one step for both bytes; bits outside `mask` keep their values. -/
def portWriteMasked (mask dval pval : Byte) (s : State) : State :=
  { s with
    ddr  := (s.ddr &&& ~~~mask) ||| (dval &&& mask)
    port := (s.port &&& ~~~mask) ||| (pval &&& mask) }

/-- `GAME_INIT(r)` (R92): "the full reset path". -/
def gameInit (r : Nibble) (s : State) : State :=
  { s with
    state  := .init
    stage  := 0
    idle   := 0
    phase  := 0
    pass   := 0
    cursor := s.P.cursorHome
    dir    := s.P.dirReset
    target := r
    btn    := ButtonState.cleared }

/-- `SLEEP()` (R116). -/
def sleep (s : State) : State := { s with asleep := true }

/-- The input word of the cycle (R4, R46) and the state that has read it: the first word lined up, or a value of the
free input when there is none (log 6). -/
def fetch (s : State) : Byte × State :=
  match s.inputs with
  | w :: ws => (w, { s with inputs := ws })
  | []      => (Config.freeInput s.freeReads, { s with freeReads := s.freeReads + 1 })

end Sys2Proof.Machine
end

