-- ==== Sys2Proof/Machine/Operands.lean ====
section
/-! DEFINITION. Operand assembly (30_encoding.md R50) and the operand forms of the pseudocode: the raw button level,
bit and slice of `phase`, and the bytes of an LED command. The draw `r` and the LED index are used unchanged. -/

namespace Sys2Proof.Machine

open Sys2Proof

/-- `b = ~w.btn_n` (R35, R50): the operand of DEBOUNCE, true = pressed. -/
def rawLevel (btnN : Bool) : Bool := !btnN

/-- `phase[n]` (R7, R102). -/
def phaseBit (s : State) (n : Nat) : Bool := s.phase.testBit n

/-- `phase[WIN_SWEEP_LSB+3 : WIN_SWEEP_LSB]` (R7, R102). -/
def winIndex (s : State) : Nibble := BitVec.ofNat 4 (s.phase >>> s.P.winSweepLsb)

/-- DRV (R80): the byte with only the drive pin of LED i set. -/
def drvByte (P : Params) (i : Nibble) : Byte := bitByte (muxBitOf P (tableRead P i).drive)

/-- SNK (R80): the byte with only the sink pin of LED i set. -/
def snkByte (P : Params) (i : Nibble) : Byte := bitByte (muxBitOf P (tableRead P i).sink)

end Sys2Proof.Machine
end

