-- ==== Sys2Proof/Machine/Flags.lean ====
section
/-! DEFINITION. The flags: the debouncer's count and level, the press event, the end-of-tick update
(42_debouncer.md R70 to R72) and the overflow latch (41_tick_source.md R61, R63). -/

namespace Sys2Proof.Machine

open Sys2Proof

/-- The count update of DEBOUNCE (R70): up to `TH` while pressed, down to 0 while released. -/
def debounceCount (th : Nat) (b : Bool) (cnt : Nat) : Nat :=
  if b = true ∧ cnt < th then cnt + 1
  else if b = false ∧ 0 < cnt then cnt - 1
  else cnt

/-- `DEBOUNCE(b)` (R70): the level is tested on the updated count and holds strictly inside the band. -/
def ButtonState.debounce (th : Nat) (b : Bool) (btn : ButtonState) : ButtonState :=
  let cnt := debounceCount th b btn.cnt
  { btn with
    raw  := b
    cnt  := cnt
    filt := if cnt = th then true else if cnt = 0 then false else btn.filt }

/-- `press` (R71), evaluated after DEBOUNCE and before the end-of-tick update. -/
def ButtonState.press (btn : ButtonState) : Bool := btn.filt && !btn.prev

/-- `btn.prev <- btn.filt` (R72). -/
def ButtonState.commitPrev (btn : ButtonState) : ButtonState := { btn with prev := btn.filt }

/-- DEBOUNCE in the machine, with the instance's `TH`. -/
def debounce (b : Bool) (s : State) : State := { s with btn := s.btn.debounce s.P.th b }

/-- The end-of-tick update in the machine (R72). -/
def commitPrev (s : State) : State := { s with btn := s.btn.commitPrev }

/-- `OVF(s)` (R61): set-dominant, one bit, never a queue. -/
def latchOvf (ovfSet : Bool) (s : State) : State := { s with ovf := s.ovf || ovfSet }

/-- The acknowledge that starts a TICK (R63). -/
def ackOvf (s : State) : State := { s with ovf := false }

end Sys2Proof.Machine
end

