-- ==== Sys2Proof/Machine/LedDriver.lean ====
section
/-! DEFINITION. The LED Driver (43_led_driver.md): LED.SET, LED.OFF and LEDWRITE. -/

namespace Sys2Proof.Machine

open Sys2Proof

/-- The pseudocode of LED.SET i (R80). -/
def ledSet (i : Nibble) (s : State) : State :=
  portWriteMasked (muxMask s.P) (drvByte s.P i ||| snkByte s.P i) (drvByte s.P i) s

/-- The pseudocode of LED.OFF (R81). -/
def ledOff (s : State) : State := portWriteMasked (muxMask s.P) 0x00 0x00 s

/-- `LEDWRITE(cmd)` (R82). -/
def ledWrite (cmd : BitVec 5) (s : State) : State :=
  if Led.en cmd then ledSet (Led.idx cmd) s else ledOff s

/-- LED.SET i (R80). -/
def execLedSet (i : Nibble) (s : State) : Host.Outcome State Fault Refusal := .next (ledSet i s)

/-- LED.OFF (R81). -/
def execLedOff (s : State) : Host.Outcome State Fault Refusal := .next (ledOff s)

end Sys2Proof.Machine
end

