-- ==== Sys2Proof/Machine/GameFsm.lean ====
section
/-! DEFINITION. The Game State Machine (44_game_fsm.md): NEXT, PERIOD, the four step operations, their dispatch, and
DISPLAY. Counters are incremented first and then compared with strictly greater (92 D5). -/

namespace Sys2Proof.Machine

open Sys2Proof

/-- `NEXT(c, d)` (R90), modulo 16. -/
def nextPos (c : Nibble) (d : Bool) : Nibble := if d = false then c + 1 else c - 1

/-- `PERIOD(g)` (R91), clamped before the subtraction. -/
def period (P : Params) (g : Nat) : Nat :=
  let dec := g * P.stepPerStage
  if P.basePeriod - P.minPeriod ≤ dec then P.minPeriod else P.basePeriod - dec

/-- `STEP.INIT(r)` (R94). -/
def stepInit (r : Nibble) (s : State) : State :=
  let s := { s with phase := s.phase + 1 }
  if s.P.spinPeriod < s.phase then
    let s := { s with phase := 0, cursor := nextPos s.cursor s.dir }
    if s.cursor = s.target then
      let s := { s with pass := s.pass + 1 }
      if s.P.passThreshold < s.pass then
        { s with state := .active, stage := 0, idle := 0, pass := 0, target := r }
      else s
    else s
  else s

/-- ACTIVE.COUNT (R96). -/
def activeCount (s : State) : State := { s with idle := s.idle + 1 }

/-- ACTIVE.MOVE (R97). -/
def activeMove (s : State) : State :=
  let s := { s with phase := s.phase + 1 }
  if period s.P s.stage < s.phase then
    { s with phase := 0, cursor := nextPos s.cursor s.dir }
  else s

/-- ACTIVE.PRESS(r) (R98), run only in a tick with a press event. -/
def activePress (r : Nibble) (s : State) : State :=
  if s.cursor = s.target then
    let s := { s with idle := 0, dir := !s.dir, target := r, stage := s.stage + 1 }
    if s.P.maxStage < s.stage then { s with state := .win, phase := 0 } else s
  else { s with state := .fail, phase := 0 }

/-- ACTIVE.TIMEOUT (R99). -/
def activeTimeout (s : State) : State :=
  if s.state = .active ∧ s.P.idleTimeout < s.idle then sleep s else s

/-- `STEP.ACTIVE(press, r)` (R95): count, move, press, timeout, in this order. -/
def stepActive (press : Bool) (r : Nibble) (s : State) : State :=
  let s := activeCount s
  let s := activeMove s
  let s := if press then activePress r s else s
  activeTimeout s

/-- `STEP.FAIL(r)` (R100). -/
def stepFail (r : Nibble) (s : State) : State :=
  let s := { s with phase := s.phase + 1 }
  if s.P.failTicks < s.phase then gameInit r s else s

/-- `STEP.WIN(r)` (R101). -/
def stepWin (r : Nibble) (s : State) : State :=
  let s := { s with phase := s.phase + 1 }
  if s.P.winTicks < s.phase then gameInit r s else s

/-- `STEP(press, r)` (R93): selected by `state` as it is when the step begins. So the press event of a button held over a
WAKE or over the end of Fail or Win is dropped if it falls in Init and judged by R98 if Init has already ended, where
R146 and R147 say that it falls in Init (DEDUCED, log 19). -/
def gameStep (press : Bool) (r : Nibble) (s : State) : State :=
  match s.state with
  | .init   => stepInit r s
  | .active => stepActive press r s
  | .fail   => stepFail r s
  | .win    => stepWin r s

/-- `DISPLAY()` (R102): the LED command for the state the tick ends in. -/
def display (s : State) : BitVec 5 :=
  if s.asleep then Led.off
  else match s.state with
    | .init   => Led.set s.cursor
    | .active =>
      if s.idle % s.P.dispMod < s.P.dispTargetTicks then Led.set s.target else Led.set s.cursor
    | .fail   => if phaseBit s s.P.failBlinkBit = false then Led.set s.cursor else Led.off
    | .win    => if phaseBit s s.P.winBlinkBit = false then Led.set (winIndex s) else Led.off

/-- STEP.INIT (R94). -/
def execStepInit (r : Nibble) (s : State) : Host.Outcome State Fault Refusal := .next (stepInit r s)

/-- STEP.ACTIVE (R95 to R99). -/
def execStepActive (press : Bool) (r : Nibble) (s : State) : Host.Outcome State Fault Refusal :=
  .next (stepActive press r s)

/-- STEP.FAIL (R100). -/
def execStepFail (r : Nibble) (s : State) : Host.Outcome State Fault Refusal := .next (stepFail r s)

/-- STEP.WIN (R101). -/
def execStepWin (r : Nibble) (s : State) : Host.Outcome State Fault Refusal := .next (stepWin r s)

end Sys2Proof.Machine
end

