-- ==== Sys2Proof/Machine/Power.lean ====
section
/-! DEFINITION. The Power Manager's cycle operations (45_power_manager.md): HOLD and WAKE. SLEEP is in Ops.lean. -/

namespace Sys2Proof.Machine

open Sys2Proof

/-- `WAKE(r)` (R118). -/
def wake (r : Nibble) (s : State) : State :=
  let s := { s with asleep := false }
  let s := gameInit r s
  let s := commitPrev s
  ledWrite (display s) s

/-- WAKE (R118), then the latch (R60, R61); a pending overflow stays pending. -/
def execWake (ovfSet : Bool) (r : Nibble) (s : State) : Host.Outcome State Fault Refusal :=
  .next (latchOvf ovfSet (wake r s))

/-- HOLD (R117): no register changes; then the latch. -/
def execHold (ovfSet : Bool) (s : State) : Host.Outcome State Fault Refusal := .next (latchOvf ovfSet s)

end Sys2Proof.Machine
end

