-- ==== Sys2Proof/Machine/Reset.lean ====
section
/-! DEFINITION. RESET (70_reset_and_hazards.md R140). -/

namespace Sys2Proof.Machine

open Sys2Proof

/-- `v << n` for a single bit v, as a byte (R140). -/
def bitAt (v : Bool) (n : Nat) : Byte := if v then bitByte n else 0

/-- `RESET(r)` (R140): it writes the port directly, not through LEDWRITE. -/
def reset (r : Nibble) (s : State) : State :=
  let s := { s with ovf := false, asleep := false }
  let s := gameInit r s
  { s with
    ddr  := bitAt s.P.btnDdrReset s.P.btnBit
    port := bitAt s.P.btnPortReset s.P.btnBit }

/-- RESET (R140); no overflow latch in this cycle (R60). -/
def execReset (r : Nibble) (s : State) : Host.Outcome State Fault Refusal := .next (reset r s)

end Sys2Proof.Machine
end

