-- ==== Sys2Proof/Machine/TickSource.lean ====
section
/-! DEFINITION. The Tick Source (41_tick_source.md): IDLE and TICK. Each cycle operation but RESET ends with the
overflow latch, which R60 applies after the operation (log 10). -/

namespace Sys2Proof.Machine

open Sys2Proof

/-- `TICK(b, r)` (R63): acknowledge, DEBOUNCE, STEP, end-of-tick update, LED write. -/
def tick (b : Bool) (r : Nibble) (s : State) : State :=
  let s := ackOvf s
  let s := debounce b s
  let s := gameStep s.btn.press r s
  let s := commitPrev s
  ledWrite (display s) s

/-- TICK (R63), then the latch (R60, R61). -/
def execTick (ovfSet btnN : Bool) (r : Nibble) (s : State) : Host.Outcome State Fault Refusal :=
  .next (latchOvf ovfSet (tick (rawLevel btnN) r s))

/-- IDLE (R62): no register changes; then the latch. -/
def execIdle (ovfSet : Bool) (s : State) : Host.Outcome State Fault Refusal := .next (latchOvf ovfSet s)

end Sys2Proof.Machine
end

