-- ==== Sys2Proof/Machine/Dispatch.lean ====
section
/-! DEFINITION. The dispatch: one arm per operation of the opcode table. -/

namespace Sys2Proof.Machine

open Sys2Proof

def exec (i : Instr) (s : State) : Host.Outcome State Fault Refusal :=
  match i with
  -- cycle operations (format CYC)
  | .reset r => Sys2Proof.Machine.execReset r s
  | .wake ovfSet r => Sys2Proof.Machine.execWake ovfSet r s
  | .hold ovfSet => Sys2Proof.Machine.execHold ovfSet s
  | .tick ovfSet btnN r => Sys2Proof.Machine.execTick ovfSet btnN r s
  | .idle ovfSet => Sys2Proof.Machine.execIdle ovfSet s
  -- step operations (format ST), run inside a TICK
  | .stepInit r => Sys2Proof.Machine.execStepInit r s
  | .stepActive press r => Sys2Proof.Machine.execStepActive press r s
  | .stepFail r => Sys2Proof.Machine.execStepFail r s
  | .stepWin r => Sys2Proof.Machine.execStepWin r s
  -- LED commands (format LED), run at the end of a TICK or WAKE
  | .ledSet idx => Sys2Proof.Machine.execLedSet idx s
  | .ledOff => Sys2Proof.Machine.execLedOff s

end Sys2Proof.Machine
end

