-- ==== Sys2Proof/Machine/Cycle.lean ====
section
/-! DEFINITION. CYCLE (41_tick_source.md R60), and the placing of a table word so that the next cycle runs it. -/

namespace Sys2Proof.Machine

open Sys2Proof

/-- `CYCLE(w)` (R60): the operation R47 selects, with the flags as they are at the start of the cycle. The overflow
latch is part of each operation's meaning (log 10). -/
def cycle (w : Byte) (s : State) : Host.Outcome State Fault Refusal :=
  exec (decodeCyc s.asleep s.ovf w) s

/-- The state in which the next cycle reads the input word and runs the operation `decodeTableWord` gives: the flags of
`tableCtx`, a RESET word needing none. -/
def withCycWord (w : Byte) (s : State) : State :=
  let s := { s with inputs := w :: s.inputs }
  if Cyc.rst w then s
  else if Cyc.wake w then { s with asleep := true }
  else { s with asleep := false, ovf := true }

/-- The state in which the next cycle is a TICK with no press event, reading the cycle word `r=0` of R52. -/
def withTick (s : State) : State :=
  { s with asleep := false, ovf := true, btn := ButtonState.cleared, inputs := 0x10#8 :: s.inputs }

/-- The state in which the TICK of the next cycle runs the step operation with this state code (R48). -/
def withStepCode (code : BitVec 2) (s : State) : State := { withTick s with state := GameState.ofCode code }

/-- The state in which the TICK of the next cycle runs this LED command (R102): for LED.SET i an Init tick that moves the
cursor onto i without landing on the target, for LED.OFF the Active tick that goes to sleep. -/
def withLedCmd (cmd : BitVec 5) (s : State) : State :=
  if Led.en cmd then
    { withTick s with
      state := .init, phase := s.P.spinPeriod, dir := false
      cursor := Led.idx cmd - 1, target := Led.idx cmd + 1 }
  else { withTick s with state := .active, idle := s.P.idleTimeout }

/-- The state in which the table word `w` of `nbits` bits is what the next cycle runs (log 8). -/
def placeWord (s : State) (nbits w : Nat) : State :=
  if nbits = 2 then withStepCode (BitVec.ofNat 2 w) s
  else if nbits = 5 then withLedCmd (BitVec.ofNat 5 w) s
  else withCycWord (BitVec.ofNat 8 w) s

end Sys2Proof.Machine
end

