-- ==== Sys2Proof/Machine/Step.lean ====
section
/-! DEFINITION. One step of the machine: one clock cycle (00_scope.md R4). -/

namespace Sys2Proof.Machine

open Sys2Proof

/-- One cycle: read the cycle's input word, perform CYCLE. -/
def step (s : State) : Host.Outcome State Fault Refusal := cycle (fetch s).1 (fetch s).2

/-- `s` with the table word `w` of `nbits` bits placed so that the very next step runs it (logs 7 and 8). -/
def State.withFetchWord (s : State) (nbits w : Nat) : State := placeWord s nbits w

end Sys2Proof.Machine
end

