-- ==== Sys2Proof/Machine/Observe.lean ====
section
/-! DEFINITION. The block's outputs (10_state.md R27, 41_tick_source.md R64), the meaning of a pin's two bits
(20_memory.md R34), and the observer's DECODE (R44). None of them is state. -/

namespace Sys2Proof.Machine

open Sys2Proof

/-- `ovf_clr` in the cycle that presents `w` (R64): 1 in exactly the cycles that perform TICK. -/
def ovfClr (w : Byte) (s : State) : Bool :=
  match decodeCyc s.asleep s.ovf w with
  | .tick .. => true
  | _        => false

/-- The block's outputs in one cycle (R27). -/
structure Outputs where
  ddr     : Byte
  port    : Byte
  ovfClr  : Bool
  asleepO : Bool
  deriving DecidableEq, Repr

/-- The outputs of the cycle that presents `w` (R27, R64): the two registers driven out unchanged, the combinational
acknowledge, and `asleep_o` equal to the register `asleep`. -/
def outputs (w : Byte) (s : State) : Outputs := ⟨s.ddr, s.port, ovfClr w s, s.asleep⟩

/-- What a pin's two bits `(ddr[n], port[n])` make of it (R34). -/
inductive PinMode where
  /-- `(1,1)`. -/
  | outputHigh
  /-- `(1,0)`. -/
  | outputLow
  /-- `(0,0)`, high-impedance input. -/
  | highZ
  /-- `(0,1)`, input with the pull-up requested. -/
  | pullUp
  deriving DecidableEq, Repr

/-- The mode of pin n (R34). -/
def pinMode (ddr port : Byte) (n : Nat) : PinMode :=
  match ddr.getLsbD n, port.getLsbD n with
  | true,  true  => .outputHigh
  | true,  false => .outputLow
  | false, false => .highZ
  | false, true  => .pullUp

/-- LED i is lit (R44): its drive pin is an output at 1 and its sink pin an output at 0. -/
def isLit (P : Params) (ddr port : Byte) (i : Nibble) : Bool :=
  let bd := muxBitOf P (tableRead P i).drive
  let bs := muxBitOf P (tableRead P i).sink
  ddr.getLsbD bd && port.getLsbD bd && ddr.getLsbD bs && !port.getLsbD bs

/-- `DECODE(ddr, port)` (R44): the lit LEDs, by rising index. -/
def lit (P : Params) (ddr port : Byte) : List Nibble :=
  ((List.range nLed).map (BitVec.ofNat 4)).filter (isLit P ddr port)

end Sys2Proof.Machine
end

