-- ==== Sys2Proof/Machine/Script.lean ====
section
/-! DEFINITION. The stimulus-script language (30_encoding.md R52, R53): lines, their bytes, the pseudo-instructions with
their expansions, the text of a line, and the listing of a run. -/

namespace Sys2Proof.Machine

open Sys2Proof

/-- One line of a script (R52): the flag words present and the value after `r=`. -/
structure ScriptLine where
  rst   : Bool := false
  wake  : Bool := false
  ovf   : Bool := false
  press : Bool := false
  r     : Nibble := 0
  deriving DecidableEq, Repr

/-- "The encoded byte is `{rst, wake, ovf, ~press, r[3:0]}`" (R52). -/
def ScriptLine.word (l : ScriptLine) : Byte := Cyc.word l.rst l.wake l.ovf (!l.press) l.r

/-- The pseudo-instructions of R53, and a plain line. -/
inductive ScriptItem where
  | line (l : ScriptLine)
  | prime
  | ticks (n : Nat) (press : Bool) (r : Nibble)
  | drain
  | idle (n : Nat)
  deriving DecidableEq, Repr

/-- The expansion of an item (R53), given the flags when it begins. `drain` repeats the line `r=0` until `ovf = 0`: a
running block needs one line if an overflow is pending and none otherwise; a sleeping block with one pending never gets
there, so it has no expansion (log 14). R53 gives `idle n` with `ovf = 0`; that it is the same n lines with an overflow
pending or in a sleeping block is the model's choice (DESIGN CHOICE, log 14): they are then what their decoding makes
them, a TICK first or HOLDs. -/
def ScriptItem.expand (asleep ovf : Bool) : ScriptItem → Option (List ScriptLine)
  | .line l          => some [l]
  | .prime           => some [{ ovf := true }]
  | .ticks n press r => some (List.replicate n { ovf := true, press := press, r := r })
  | .drain           => if ovf = false then some [] else if asleep then none else some [{}]
  | .idle n          => some (List.replicate n {})

/-- The bytes an item expands to. -/
def ScriptItem.expandWords (asleep ovf : Bool) (i : ScriptItem) : Option (List Byte) :=
  (i.expand asleep ovf).map (·.map ScriptLine.word)

/-! ## The text of a line -/

/-- The text before the `#` that starts a comment. -/
def stripComment : List Char → List Char
  | []      => []
  | c :: cs => if c = '#' then [] else c :: stripComment cs

/-- The words of a line, separated by spaces; `acc` is the word being read, reversed. -/
def splitWords (acc : List Char) : List Char → List (List Char)
  | []      => if acc.isEmpty then [] else [acc.reverse]
  | c :: cs =>
    if c = ' ' then (if acc.isEmpty then [] else [acc.reverse]) ++ splitWords [] cs
    else splitWords (c :: acc) cs

/-- A decimal number; `n` is the value of the digits already read. -/
def readDecimal (n : Nat) : List Char → Option Nat
  | []      => some n
  | c :: cs => if '0' ≤ c ∧ c ≤ '9' then readDecimal (10 * n + (c.toNat - '0'.toNat)) cs else none

/-- "Zero or more flag words, then `r=<n>` with n in 0..15 (default `r=0`)" (R52). -/
def readWords (l : ScriptLine) : List (List Char) → Option ScriptLine
  | []      => some l
  | w :: ws =>
    if w = ['r', 's', 't'] then readWords { l with rst := true } ws
    else if w = ['w', 'a', 'k', 'e'] then readWords { l with wake := true } ws
    else if w = ['o', 'v', 'f'] then readWords { l with ovf := true } ws
    else if w = ['p', 'r', 'e', 's', 's'] then readWords { l with press := true } ws
    else match w with
      | 'r' :: '=' :: d :: ds =>
        match readDecimal 0 (d :: ds), ws with
        | some n, [] => if n < 16 then some { l with r := BitVec.ofNat 4 n } else none
        | _, _       => none
      | _ => none

/-- A line of text, or none if it is no line of R52. -/
def readLine (text : List Char) : Option ScriptLine := readWords {} (splitWords [] (stripComment text))

/-! ## The listing of a run -/

/-- One row of a listing (R52): cycle number, byte, the operation R47 selected, `ovf_clr`, the state after the cycle. -/
structure ListingRow where
  number : Nat
  byte   : Byte
  op     : Instr
  clr    : Bool
  after  : State
  deriving DecidableEq, Repr

/-- The listing of a run over the given bytes, numbered from `n`; it ends early if a cycle does not complete. -/
def listing (n : Nat) (s : State) : List Byte → List ListingRow
  | []      => []
  | w :: ws =>
    match cycle w s with
    | .next t => ⟨n, w, decodeCyc s.asleep s.ovf w, ovfClr w s, t⟩ :: listing (n + 1) t ws
    | _       => []

end Sys2Proof.Machine
end

