-- ==== Sys2Proof/Safety.lean ====
section
/-! DEFINITION. The terms the statements use: runs over given input words, the invariants of 10_state.md R29 and
70_reset_and_hazards.md R150, and the host's duties of 60_exceptions.md R137. -/

namespace Sys2Proof.Machine

open Sys2Proof

/-! ## Runs -/

/-- The next state an outcome carries, if any. -/
def nextState : Host.Outcome State Fault Refusal → Option State
  | .next s => some s
  | _       => none

/-- `s` with the words `ws` lined up as the inputs of its next cycles, in place of those lined up before. -/
def State.withInputs (s : State) (ws : List Byte) : State := { s with inputs := ws }

/-- The run of the machine over the words `ws`, one step each. -/
def runInputs (ws : List Byte) (s : State) : Host.Outcome State Fault Refusal :=
  Sys2Proof.core.run ws.length (s.withInputs ws)

/-- How many cycles of the run over `ws` perform TICK (R64). -/
def ticksIn (s : State) : List Byte → Nat
  | []      => 0
  | w :: ws =>
    (if ovfClr w s then 1 else 0) +
      match cycle w s with
      | .next t => ticksIn t ws
      | _       => 0

/-- What the host and the instance own: the parameter record, the words lined up, the free words read. No operation
changes them; only the fetch of a cycle takes its word. -/
def SameHost (s t : State) : Prop :=
  t.inst = s.inst ∧ t.inputs = s.inputs ∧ t.freeReads = s.freeReads

/-- The registers a TICK's step operation leaves alone whatever it does: the port bytes and the overflow flag. -/
def SamePort (s t : State) : Prop := t.ddr = s.ddr ∧ t.port = s.port ∧ t.ovf = s.ovf

/-- The debouncer alone over a sequence of ticks, one level each (R70, R72), with no GAME_INIT among them. -/
def buttonRun (th : Nat) (btn : ButtonState) (levels : List Bool) : ButtonState :=
  levels.foldl (fun s b => (s.debounce th b).commitPrev) btn

/-- No tick of the sequence has a press event (R71), with no GAME_INIT among them. -/
def noPress (th : Nat) (btn : ButtonState) : List Bool → Bool
  | []      => true
  | b :: bs => !(btn.debounce th b).press && noPress th (btn.debounce th b).commitPrev bs

/-! ## The shared port -/

/-- What each multiplexed pin is after an LED command, `none` being LED.OFF (R80, R81): the drive pin of the LED is an
output high, its sink pin an output low, every other pin a high-impedance input. -/
def PinsShow (c : Option Nibble) (s : State) : Prop :=
  ∀ k, k < s.P.nMux → pinMode s.ddr s.port (muxBitOf s.P k) =
    match c with
    | none   => .highZ
    | some i =>
      if k = (tableRead s.P i).drive then .outputHigh
      else if k = (tableRead s.P i).sink then .outputLow
      else .highZ

/-- Every bit of both port bytes that belongs to no multiplexed pin, the button pin's among them, is the same (R83). -/
def OtherPinsKept (s t : State) : Prop :=
  ∀ n, n ∉ s.P.muxBit → t.ddr.getLsbD n = s.ddr.getLsbD n ∧ t.port.getLsbD n = s.port.getLsbD n

/-- The LED index a command lights, if any (R49). -/
def cmdIndex (cmd : BitVec 5) : Option Nibble := if Led.en cmd then some (Led.idx cmd) else none

/-! ## The invariants -/

/-- The invariants of R29 that the register types do not give by themselves, and the bounds of `phase` from R150. -/
structure Inv (s : State) : Prop where
  /-- R29 (b). -/
  cnt_le : s.btn.cnt ≤ s.P.th
  /-- R29 (c), Init, Active and Fail. -/
  stage_le : s.state ≠ .win → s.stage ≤ s.P.maxStage
  /-- R29 (c), Win. -/
  stage_win : s.state = .win → s.stage = s.P.maxStage + 1
  /-- R29 (d), the bound. -/
  idle_le : s.idle ≤ s.P.idleTimeout + 1
  /-- R29 (d), where equality holds. -/
  idle_eq : s.idle = s.P.idleTimeout + 1 → s.asleep = true ∨ s.state = .fail
  /-- R29 (e). -/
  pass_le : s.pass ≤ s.P.passThreshold
  /-- R29 (f): the button pin's bits and the unused bits have their reset values. -/
  other_pins : ∀ n, n ∉ s.P.muxBit →
    s.ddr.getLsbD n = (decide (n = s.P.btnBit) && s.P.btnDdrReset) ∧
    s.port.getLsbD n = (decide (n = s.P.btnBit) && s.P.btnPortReset)
  /-- R29 (g). -/
  mux_pins : ∃ c, PinsShow c s
  /-- R29 (h). -/
  asleep_off : s.asleep = true → s.state = .active ∧ PinsShow none s
  /-- R29 (i); RESET, IDLE and HOLD keep it too. -/
  prev_eq : s.btn.prev = s.btn.filt
  /-- R150: `phase` at the end of a cycle. -/
  phase_le : match s.state with
    | .init   => s.phase ≤ s.P.spinPeriod
    | .active => s.phase ≤ s.P.basePeriod
    | .fail   => s.phase ≤ s.P.failTicks
    | .win    => s.phase ≤ s.P.winTicks

/-! ## The host's duties (R137), as hypotheses a statement may take by name

`H_RND_VALID` holds of every word: its `rnd` field is 4 bits. `H_BTN_SYNC` and `H_RND_UNIFORM` speak of what the model
does not hold, voltages within a cycle and probability (log 12). -/

/-- `H_RESET_FIRST`: the first word of the run has `rst = 1`. -/
def HResetFirst (ws : List Byte) : Prop := ∃ w rest, ws = w :: rest ∧ Cyc.rst w = true

/-- `H_TICKS_FOREVER`: infinitely many overflow cycles. -/
def HTicksForever (ws : Nat → Byte) : Prop := ∀ n, ∃ m, n ≤ m ∧ Cyc.ovfSet (ws m) = true

/-- The level change of the button pin that `WAKE_EDGE` calls qualifying (R119). -/
def qualifyingEdge (e : WakeEdge) (before now : Bool) : Bool :=
  match e with
  | .press   => before && !now
  | .release => !before && now

/-- The button pin between samples. The edge detector is the host's and watches the pin itself, which may bounce within
a cycle or move while the clock is stopped (R119 (1), (4)). -/
structure PinTrace where
  /-- The level when the run begins. -/
  before : Bool
  /-- The levels the pin takes from the sample of the cycle before up to the sample of cycle n, which is the last. -/
  during : Nat → List Bool

/-- The pin's last level in each cycle is the one the block samples, `btn_n`. -/
def PinTrace.Sampled (p : PinTrace) (ws : Nat → Byte) : Prop :=
  ∀ n, (p.during n).getLast? = some (Cyc.btnN (ws n))

/-- How many qualifying edges a sequence of levels has, from the level before it. -/
def edgesIn (e : WakeEdge) (before : Bool) : List Bool → Nat
  | []      => 0
  | l :: ls => (if qualifyingEdge e before l then 1 else 0) + edgesIn e l ls

/-- The qualifying edges of the pin in cycle n. -/
def PinTrace.edges (p : PinTrace) (e : WakeEdge) (ws : Nat → Byte) : Nat → Nat
  | 0     => edgesIn e p.before (p.during 0)
  | n + 1 => edgesIn e (Cyc.btnN (ws n)) (p.during (n + 1))

/-- The qualifying edges that the host has seen before cycle n and not answered with a cycle of `wake`. While asleep each
edge counts; when the block was running in the cycle before, only that cycle's edges do, which the host may hold over
the TICK that goes to sleep (R119 (2)). -/
def PinTrace.unanswered (p : PinTrace) (e : WakeEdge) (asleep : Nat → Bool) (ws : Nat → Byte) : Nat → Nat
  | 0     => 0
  | n + 1 =>
    if asleep n then p.unanswered e asleep ws n + p.edges e ws n - (if Cyc.wake (ws n) then 1 else 0)
    else p.edges e ws n

/-- `H_WAKE_ONCE` (R119, R137): while `asleep_o = 1` (`asleep n` is its value in cycle n), `wake` is raised for one cycle
per qualifying edge and never without one. How long after its edge is the host's affair; an edge seen only in the cycle
of the sleeping TICK may be held or lost. A cycle of `wake` ends the sleep, so one answers all edges of a sleep. -/
structure HWakeOnce (e : WakeEdge) (p : PinTrace) (asleep : Nat → Bool) (ws : Nat → Byte) : Prop where
  /-- Never without an edge, and no more cycles than edges. -/
  never_without : ∀ n, asleep n = true → Cyc.wake (ws n) = true →
    1 ≤ p.unanswered e asleep ws n + p.edges e ws n
  /-- Every edge seen while asleep is answered in the same sleep, unless a reset ends it. -/
  every_edge : ∀ n, asleep n = true → 1 ≤ p.edges e ws n →
    ∃ m, n ≤ m ∧ (∀ k, n ≤ k → k ≤ m → asleep k = true) ∧ (Cyc.wake (ws m) = true ∨ Cyc.rst (ws m) = true)

end Sys2Proof.Machine
end

