-- ==== Sys2Proof/Certificates/Slice0/Obligations.lean ====
section
/-! DEFINITION. The statements for the provers. Each holds for every instance of the spec: WF_PARAMS is carried by the
type of `State.inst` (log 3). -/

open Sys2Proof Sys2Proof.Machine

/-! ## Reset, idle polls, sleep and wake -/

/-- R28: after RESET with draw r, from any state, every register has the value of the table; the last clause is the
table's REF column. -/
def Obligations.ResetSetsEveryRegister : Prop :=
  ∀ (s : State) (r : Nibble), ∃ t, exec (.reset r) s = .next t ∧
    t.state = .init ∧ t.stage = 0 ∧ t.cursor = s.P.cursorHome ∧ t.target = r ∧ t.dir = s.P.dirReset ∧
    t.phase = 0 ∧ t.idle = 0 ∧ t.pass = 0 ∧
    t.btn.raw = false ∧ t.btn.cnt = 0 ∧ t.btn.filt = false ∧ t.btn.prev = false ∧
    (∀ n, t.ddr.getLsbD n = (decide (n = s.P.btnBit) && s.P.btnDdrReset)) ∧
    (∀ n, t.port.getLsbD n = (decide (n = s.P.btnBit) && s.P.btnPortReset)) ∧
    t.ovf = false ∧ t.asleep = false ∧ SameHost s t ∧
    (s.inst = Instance.ref →
      t.state.code = 0b00 ∧ t.cursor = 8 ∧ t.dir = false ∧ t.ddr = 0x00 ∧ t.port = 0x20)

/-- R141, R142 (3): a run that begins with a RESET word (`H_RESET_FIRST`) does not depend on any register's value before
it. -/
def Obligations.RunFromResetForgetsThePast : Prop :=
  ∀ (ws : List Byte) (s t : State), HResetFirst ws → s.inst = t.inst → s.freeReads = t.freeReads →
    runInputs ws s = runInputs ws t

/-- R61, R62, R117: IDLE and HOLD change nothing but the overflow flag, which latches the cycle's `ovf_set`. -/
def Obligations.IdleAndHoldOnlyLatchOverflow : Prop :=
  ∀ (s : State) (o : Bool),
    exec (.idle o) s = .next { s with ovf := s.ovf || o } ∧
    exec (.hold o) s = .next { s with ovf := s.ovf || o }

/-- R117, R121: across any run of HOLD cycles every register but `ovf` is unchanged, however many overflows arrive and
whatever the button does; the overflows are coalesced into one pending bit. -/
def Obligations.HoldRunsKeepEverythingButOvf : Prop :=
  ∀ (ws : List Byte) (s : State), s.asleep = true →
    (∀ w ∈ ws, Cyc.rst w = false ∧ Cyc.wake w = false) →
    runInputs ws s = .next { s with inputs := [], ovf := s.ovf || ws.any Cyc.ovfSet }

/-- R118: WAKE clears `asleep`, rebuilds the game and the ButtonState, lights LED CURSOR_HOME, keeps the other pins'
bits, and leaves a pending overflow pending. -/
def Obligations.WakeRestartsTheGame : Prop :=
  ∀ (s : State) (o : Bool) (r : Nibble), ∃ t, exec (.wake o r) s = .next t ∧
    t.asleep = false ∧ t.state = .init ∧ t.stage = 0 ∧ t.idle = 0 ∧ t.phase = 0 ∧ t.pass = 0 ∧
    t.cursor = s.P.cursorHome ∧ t.dir = s.P.dirReset ∧ t.target = r ∧
    t.btn.raw = false ∧ t.btn.cnt = 0 ∧ t.btn.filt = false ∧ t.btn.prev = false ∧
    PinsShow (some s.P.cursorHome) t ∧ OtherPinsKept s t ∧ t.ovf = (s.ovf || o) ∧ SameHost s t

/-- R149: a WAKE cycle processes no tick and leaves an ordinary first Init tick for the next cycle if an overflow is
pending; after the TICK that goes to sleep no word makes the next cycle a TICK. -/
def Obligations.NoTickInWakeNorAfterSleep : Prop :=
  ∀ (w : Byte) (s t : State), cycle w s = .next t → Cyc.rst w = false →
    (s.asleep = true → Cyc.wake w = true →
      ovfClr w s = false ∧ t.state = .init ∧ t.phase = 0 ∧ t.ovf = (s.ovf || Cyc.ovfSet w) ∧
      ∀ w', Cyc.rst w' = false → ovfClr w' t = t.ovf) ∧
    (s.asleep = false → t.asleep = true → ovfClr w s = true ∧ ∀ w', ovfClr w' t = false)

/-! ## Encodings -/

/-- R47, the selection table, with its masks and matches on the word and its operand fields. -/
def Obligations.CycleSelectionFollowsTheTable : Prop :=
  ∀ (asleep ovf : Bool) (w : Byte),
    (w &&& 0x80 = 0x80 → decodeCyc asleep ovf w = .reset (w.extractLsb' 0 4)) ∧
    (w &&& 0xC0 = 0x40 → asleep = true → decodeCyc asleep ovf w = .wake (w.getLsbD 5) (w.extractLsb' 0 4)) ∧
    (w &&& 0xC0 = 0x00 → asleep = true → decodeCyc asleep ovf w = .hold (w.getLsbD 5)) ∧
    (w &&& 0x80 = 0x00 → asleep = false → ovf = true →
      decodeCyc asleep ovf w = .tick (w.getLsbD 5) (w.getLsbD 4) (w.extractLsb' 0 4)) ∧
    (w &&& 0x80 = 0x00 → asleep = false → ovf = false → decodeCyc asleep ovf w = .idle (w.getLsbD 5))

/-- Words written out from R46, R48, R49 and R52 decode to the operations they stand for. -/
def Obligations.SpecWordsDecode : Prop :=
  decodeCyc true true 0b10011010#8 = .reset 10 ∧
  decodeCyc true false 0b01000111#8 = .wake false 7 ∧
  decodeCyc true true 0b00110000#8 = .hold true ∧
  decodeCyc false true 0b00101000#8 = .tick true false 8 ∧
  decodeCyc false false 0b01110000#8 = .idle true ∧
  decodeSt 0b00#2 true 3 = .stepInit 3 ∧ decodeSt 0b01#2 true 3 = .stepActive true 3 ∧
  decodeSt 0b10#2 true 3 = .stepFail 3 ∧ decodeSt 0b11#2 true 3 = .stepWin 3 ∧
  decodeLed 0b11001#5 = .ledSet 9 ∧ decodeLed 0b00000#5 = .ledOff ∧ decodeLed 0b01111#5 = .ledOff

/-- Decoding an operation's own word, where its row is the one selected, gives it back with every operand. -/
def Obligations.DecodeInvertsEncode : Prop :=
  ∀ (c : DecodeCtx) (i : Instr), i.selectedBy c = true → decode c (encode i) = i

/-- R51: re-encoding what a word decodes to gives the word back on every bit its operation uses, and zero on the bits it
ignores. -/
def Obligations.EncodeInvertsDecodeOnUsedBits : Prop :=
  ∀ c : DecodeCtx,
    (∀ w, encode (decode c (.cyc w)) = .cyc (w &&& careMask (decode c (.cyc w)))) ∧
    (∀ code, encode (decode c (.st code)) = .st code) ∧
    (∀ cmd, encode (decode c (.led cmd)) = .led (if cmd.getLsbD 4 then cmd else 0b00000))

/-- R51: two words that agree on the bits the selected operation uses make the same cycle. -/
def Obligations.IgnoredFieldsDoNotMatter : Prop :=
  ∀ (s : State) (w w' : Byte),
    w &&& careMask (decodeCyc s.asleep s.ovf w) = w' &&& careMask (decodeCyc s.asleep s.ovf w) →
    cycle w s = cycle w' s

/-! ## The cycle -/

/-- R4, R60: a step reads one word, the first one lined up or else the next free one, and runs the operation it decodes
to; the fetch changes nothing else. -/
def Obligations.StepRunsTheDecodedWord : Prop :=
  (∀ (s : State) (w : Byte) (ws : List Byte), s.inputs = w :: ws →
    step s = exec (decodeCyc s.asleep s.ovf w) { s with inputs := ws }) ∧
  (∀ s : State, s.inputs = [] →
    step s = exec (decodeCyc s.asleep s.ovf (Config.freeInput s.freeReads))
      { s with freeReads := s.freeReads + 1 })

/-- R125, R152: no operation and no step stops; the block never halts and raises nothing. -/
def Obligations.EveryOperationAndStepCompletes : Prop :=
  (∀ (i : Instr) (s : State), ∃ t, exec i s = .next t) ∧ ∀ s : State, ∃ t, step s = .next t

/-- R60, R61: the overflow flag after any cycle. RESET clears it; a running block's pending overflow is acknowledged by its
TICK; a sleeping block's stays; the cycle's own `ovf_set` is latched by every non-RESET cycle. -/
def Obligations.OverflowFlagAfterACycle : Prop :=
  ∀ (w : Byte) (s : State), ∃ t, cycle w s = .next t ∧
    t.ovf = (!Cyc.rst w && (Cyc.ovfSet w || (s.asleep && s.ovf)))

/-- R64: `ovf_clr` is 1 in exactly the cycles that perform TICK and 0 in all others. -/
def Obligations.OvfClrExactlyInTickCycles : Prop :=
  ∀ (w : Byte) (s : State),
    ((outputs w s).ovfClr = true ↔ ∃ o b r, decodeCyc s.asleep s.ovf w = .tick o b r) ∧
    ((outputs w s).ovfClr = false ↔ ∀ o b r, decodeCyc s.asleep s.ovf w ≠ .tick o b r)

/-- R65: one tick per acknowledged overflow, never more: over any run the ticks number at most the overflow cycles, plus one
if an overflow was pending at the start. -/
def Obligations.TicksNeverExceedOverflows : Prop :=
  ∀ (ws : List Byte) (s : State),
    ticksIn s ws ≤ (if s.ovf then 1 else 0) + ws.countP Cyc.ovfSet

/-- R5, R6, R43: no step changes the instance's constants; a step takes one word and nothing else of what the host owns. -/
def Obligations.StepKeepsTheInstance : Prop :=
  ∀ s t : State, step s = .next t →
    t.inst = s.inst ∧ t.inputs = s.inputs.tail ∧
    t.freeReads = if s.inputs = [] then s.freeReads + 1 else s.freeReads

/-- R33, R83, R138: no cycle but RESET changes a port bit of no multiplexed pin, the button pin's bits among them. -/
def Obligations.OnlyResetTouchesOtherPins : Prop :=
  ∀ (w : Byte) (s t : State), Cyc.rst w = false → cycle w s = .next t → OtherPinsKept s t

/-- R48, R63, R93: a TICK acknowledges, debounces, runs the step operation whose code is in `state` at the start of the tick
with the tick's press event and draw, updates `btn.prev`, and runs the LED command DISPLAY gives; then the cycle's overflow is
latched. -/
def Obligations.TickRunsTheSelectedStep : Prop :=
  GameState.code .init = 0b00 ∧ GameState.code .active = 0b01 ∧ GameState.code .fail = 0b10 ∧
  GameState.code .win = 0b11 ∧
  ∀ (o btnN : Bool) (r : Nibble) (s : State),
    let btn := s.btn.debounce s.P.th (!btnN)
    ∃ u v : State,
      exec (decodeSt s.state.code (btn.filt && !btn.prev) r) { s with ovf := false, btn := btn } = .next u ∧
      exec (decodeLed (display { u with btn := { u.btn with prev := u.btn.filt } }))
        { u with btn := { u.btn with prev := u.btn.filt } } = .next v ∧
      exec (.tick o btnN r) s = .next { v with ovf := o }

/-- R63, R102, R118: after a TICK or WAKE the multiplexed pins show what DISPLAY says of the state the cycle ends in. -/
def Obligations.PinsShowTheDisplay : Prop :=
  ∀ (s : State) (i : Instr), ((∃ o b r, i = .tick o b r) ∨ ∃ o r, i = .wake o r) → ∃ t, exec i s = .next t ∧
    PinsShow
      (if t.asleep then none
       else match t.state with
         | .init   => some t.cursor
         | .active => if t.idle % t.P.dispMod < t.P.dispTargetTicks then some t.target else some t.cursor
         | .fail   => if t.phase / 2 ^ t.P.failBlinkBit % 2 = 0 then some t.cursor else none
         | .win    =>
           if t.phase / 2 ^ t.P.winBlinkBit % 2 = 0
           then some (BitVec.ofNat 4 (t.phase / 2 ^ t.P.winSweepLsb % 16)) else none)
      t

/-! ## The debouncer -/

/-- R70, R72, R92: the ButtonState a TICK leaves, by the rules' own cases; if the tick's step runs GAME_INIT (Fail or Win
ends), it is cleared. -/
def Obligations.TickUpdatesTheButton : Prop :=
  ∀ (o btnN : Bool) (r : Nibble) (s : State), ∃ t, exec (.tick o btnN r) s = .next t ∧
    ((s.state = .fail ∨ s.state = .win) ∧ t.state = .init →
      t.btn.raw = false ∧ t.btn.cnt = 0 ∧ t.btn.filt = false ∧ t.btn.prev = false) ∧
    (¬ ((s.state = .fail ∨ s.state = .win) ∧ t.state = .init) →
      t.btn.raw = (!btnN) ∧
      (btnN = false → s.btn.cnt < s.P.th → t.btn.cnt = s.btn.cnt + 1) ∧
      (btnN = false → s.P.th ≤ s.btn.cnt → t.btn.cnt = s.btn.cnt) ∧
      (btnN = true → t.btn.cnt = s.btn.cnt - 1) ∧
      (t.btn.cnt = s.P.th → t.btn.filt = true) ∧
      (t.btn.cnt ≠ s.P.th → t.btn.cnt = 0 → t.btn.filt = false) ∧
      (t.btn.cnt ≠ s.P.th → t.btn.cnt ≠ 0 → t.btn.filt = s.btn.filt) ∧
      t.btn.prev = t.btn.filt)

/-- R74: "If `btn.cnt <= TH` before DEBOUNCE then `btn.cnt <= TH` after"; below 0 no natural number goes. -/
def Obligations.DebounceKeepsTheBound : Prop :=
  ∀ (th : Nat) (b : Bool) (btn : ButtonState), btn.cnt ≤ th → (btn.debounce th b).cnt ≤ th

/-- R75: TH consecutive ticks of one level settle the filter at that level, and for TH ≥ 2 a single noisy sample after
them does not move it. -/
def Obligations.SteadyLevelSettlesTheFilter : Prop :=
  ∀ (th : Nat) (btn : ButtonState) (v : Bool), 1 ≤ th → btn.cnt ≤ th →
    (buttonRun th btn (List.replicate th v)).filt = v ∧
    (2 ≤ th → (buttonRun th btn (List.replicate th v ++ [!v])).filt = v ∧
      (buttonRun th btn (List.replicate th v ++ [!v, v])).filt = v)

/-- R75: the filter rises only after at least TH - c pressed ticks, and falls only after at least c released ticks, c
being the count at the start. -/
def Obligations.FilterFlipsNeedEnoughTicks : Prop :=
  ∀ (th : Nat) (btn : ButtonState) (levels : List Bool), 1 ≤ th → btn.cnt ≤ th →
    (btn.filt = false → (buttonRun th btn levels).filt = true → th - btn.cnt ≤ levels.count true) ∧
    (btn.filt = true → (buttonRun th btn levels).filt = false → btn.cnt ≤ levels.count false)

/-- R76: from the fully released state, a button pressed and held gives the press event in exactly the TH-th tick. -/
def Obligations.HeldPressFiresInTickTH : Prop :=
  ∀ (th n : Nat) (btn : ButtonState), 1 ≤ th → btn.cnt = 0 → btn.filt = false → btn.prev = false →
    ((buttonRun th btn (List.replicate n true)).debounce th true).press = decide (n + 1 = th)

/-- R76: two press events with no GAME_INIT between them are at least 2 * TH ticks apart. The premise `prev = filt` is R29
(i), which StepKeepsInv says of every state a run passes through. -/
def Obligations.PressEventsAreSpaced : Prop :=
  ∀ (th : Nat) (btn : ButtonState) (b b' : Bool) (levels : List Bool), 1 ≤ th → btn.cnt ≤ th →
    btn.prev = btn.filt → (btn.debounce th b).press = true → levels.length + 1 < 2 * th →
    ((buttonRun th (btn.debounce th b).commitPrev levels).debounce th b').press = false

/-- R76, R146: no press event comes from a button that reads released and is pressed for fewer ticks than the filter
needs to rise (none, if it is left alone), nor from one that reads pressed, as the tick before left it, and is released
for fewer ticks than the filter needs to fall (none, if it is held). -/
def Obligations.QuietButtonHasNoPress : Prop :=
  ∀ (th : Nat) (btn : ButtonState) (levels : List Bool), 1 ≤ th → btn.cnt ≤ th → btn.prev = btn.filt →
    (btn.filt = false → levels.count true < th - btn.cnt → noPress th btn levels = true) ∧
    (btn.filt = true → levels.count false < btn.cnt → noPress th btn levels = true)

/-! ## The LED driver -/

/-- R80: LED.SET i, with (d, k) its table entry, writes `ddr' = (ddr & ~MUX_MASK) | DRV | SNK` and `port' = (port &
~MUX_MASK) | DRV` and changes no other register: pin d is an output high, pin k an output low, every other multiplexed
pin a high-impedance input, every other bit of both bytes as before; writing the same i again changes nothing; the last
clause is the rule's REF example. -/
def Obligations.LedSetDrivesItsTwoPins : Prop :=
  (∀ (i : Nibble) (s : State),
    let drv : Byte := 1 <<< muxBitOf s.P (tableRead s.P i).drive
    let snk : Byte := 1 <<< muxBitOf s.P (tableRead s.P i).sink
    ∃ t, exec (.ledSet i) s = .next t ∧
      t = { s with
        ddr := (s.ddr &&& ~~~muxMask s.P) ||| drv ||| snk, port := (s.port &&& ~~~muxMask s.P) ||| drv } ∧
      PinsShow (some i) t ∧ OtherPinsKept s t ∧ exec (.ledSet i) t = .next t) ∧
  (∀ (P : Params) (n : Nat), (muxMask P).getLsbD n = (decide (n ∈ P.muxBit) && decide (n < 8))) ∧
  ∀ s : State, s.inst = Instance.ref → s.ddr = 0x00 → s.port = 0x20 →
    exec (.ledSet 9) s = .next { s with ddr := 0x06, port := 0x24 }

/-- R81: LED.OFF writes `ddr' = ddr & ~MUX_MASK` and `port' = port & ~MUX_MASK` and changes no other register: every
multiplexed pin is a high-impedance input, every other bit of both bytes as before; the last clause is the rule's REF
example. -/
def Obligations.LedOffReleasesAllPins : Prop :=
  (∀ s : State, ∃ t, exec .ledOff s = .next t ∧
    t = { s with ddr := s.ddr &&& ~~~muxMask s.P, port := s.port &&& ~~~muxMask s.P } ∧
    PinsShow none t ∧ OtherPinsKept s t) ∧
  ∀ s : State, s.inst = Instance.ref → s.ddr = 0x06 → s.port = 0x24 →
    exec .ledOff s = .next { s with ddr := 0x00, port := 0x20 }

/-- R83: for every command and every prior port value the button pin's bits, and every bit outside MUX_MASK, keep their
values; the last clause is the rule's REF example. -/
def Obligations.ButtonPinNeverDisturbed : Prop :=
  (∀ (cmd : BitVec 5) (s : State), ∃ t, exec (decodeLed cmd) s = .next t ∧
    t.ddr.getLsbD s.P.btnBit = s.ddr.getLsbD s.P.btnBit ∧
    t.port.getLsbD s.P.btnBit = s.port.getLsbD s.P.btnBit ∧
    ∀ n, n ∉ s.P.muxBit → t.ddr.getLsbD n = s.ddr.getLsbD n ∧ t.port.getLsbD n = s.port.getLsbD n) ∧
  ∀ s : State, s.inst = Instance.ref → s.ddr = 0xDF → s.port = 0xFF →
    exec (.ledSet 9) s = .next { s with ddr := 0xC6, port := 0xE4 }

/-- R84: after LED.SET i exactly two multiplexed pins are outputs, pin d at 1 and pin s at 0, and the rest are
high-impedance; under INJ_TABLE the decode is {i}; without it every index sharing the pair decodes as lit together; after
LED.OFF the decode is {}. -/
def Obligations.ExactlyTheAddressedLedIsLit : Prop :=
  ∀ (i : Nibble) (s : State),
    (∃ t, exec (.ledSet i) s = .next t ∧
      (∃ d k, d < s.P.nMux ∧ k < s.P.nMux ∧ d ≠ k ∧
        d = (tableRead s.P i).drive ∧ k = (tableRead s.P i).sink ∧
        pinMode t.ddr t.port (muxBitOf s.P d) = .outputHigh ∧ pinMode t.ddr t.port (muxBitOf s.P k) = .outputLow ∧
        ∀ l, l < s.P.nMux → l ≠ d → l ≠ k → pinMode t.ddr t.port (muxBitOf s.P l) = .highZ) ∧
      (s.P.injTable = true → lit s.P t.ddr t.port = [i]) ∧
      (∀ j, j ∈ lit s.P t.ddr t.port ↔ tableRead s.P j = tableRead s.P i)) ∧
    (∃ t, exec .ledOff s = .next t ∧ lit s.P t.ddr t.port = [])

/-! ## The game state machine -/

/-- R90: NEXT is the neighbour on the ring of 16, in both directions, with the rule's examples. -/
def Obligations.NextIsTheNeighbourOnTheRing : Prop :=
  (∀ c : Nibble, (nextPos c false).toNat = (c.toNat + 1) % 16 ∧ (nextPos c true).toNat = (c.toNat + 15) % 16) ∧
  nextPos 15 false = 0 ∧ nextPos 0 true = 15 ∧ nextPos 8 false = 9

/-- R91: PERIOD(g) = max(MIN_PERIOD, BASE_PERIOD - g * STEP_PER_STAGE), always in [MIN_PERIOD, BASE_PERIOD], hence at
least 1; with the rule's REF and SMALL values. -/
def Obligations.PeriodIsTheClampedMaximum : Prop :=
  (∀ (I : Instance) (g : Nat),
    (period I.params g : Int) =
      max (I.params.minPeriod : Int) ((I.params.basePeriod : Int) - (g : Int) * (I.params.stepPerStage : Int)) ∧
    I.params.minPeriod ≤ period I.params g ∧ period I.params g ≤ I.params.basePeriod ∧ 1 ≤ period I.params g) ∧
  (List.range 12).map (period Params.ref) = [100, 92, 84, 76, 68, 60, 52, 44, 36, 28, 20, 12] ∧
  (∀ g, 12 ≤ g → period Params.ref g = 10) ∧
  period Params.small 0 = 3 ∧ period Params.small 1 = 1 ∧ period Params.small 2 = 1

/-- R94: the four courses of STEP.INIT, each with everything it leaves unchanged. -/
def Obligations.StepInitResult : Prop :=
  ∀ (s : State) (r : Nibble),
    let moved := nextPos s.cursor s.dir
    (s.phase + 1 ≤ s.P.spinPeriod → exec (.stepInit r) s = .next { s with phase := s.phase + 1 }) ∧
    (s.P.spinPeriod < s.phase + 1 → moved ≠ s.target →
      exec (.stepInit r) s = .next { s with phase := 0, cursor := moved }) ∧
    (s.P.spinPeriod < s.phase + 1 → moved = s.target → s.pass + 1 ≤ s.P.passThreshold →
      exec (.stepInit r) s = .next { s with phase := 0, cursor := moved, pass := s.pass + 1 }) ∧
    (s.P.spinPeriod < s.phase + 1 → moved = s.target → s.P.passThreshold < s.pass + 1 →
      exec (.stepInit r) s = .next { s with
        phase := 0, cursor := moved, state := .active, stage := 0, idle := 0, pass := 0, target := r })

/-- R95, R96, R97, R99: STEP.ACTIVE without a press event counts, moves, and sleeps exactly when the count exceeds the
timeout. -/
def Obligations.StepActiveWithoutPress : Prop :=
  ∀ (s : State) (r : Nibble), s.state = .active →
    let moves := decide (period s.P s.stage < s.phase + 1)
    let t : State := { s with
      idle := s.idle + 1
      phase := if moves then 0 else s.phase + 1
      cursor := if moves then nextPos s.cursor s.dir else s.cursor }
    (s.idle + 1 ≤ s.P.idleTimeout → exec (.stepActive false r) s = .next t) ∧
    (s.P.idleTimeout < s.idle + 1 → exec (.stepActive false r) s = .next { t with asleep := true })

/-- R95, R97, R98, R99: STEP.ACTIVE with a press event. The press is judged on the cursor after this tick's move; a hit
that stays in Active, a winning hit and a miss each avert the sleep, whatever the idle count. -/
def Obligations.StepActiveWithPress : Prop :=
  ∀ (s : State) (r : Nibble), s.state = .active →
    let moves := decide (period s.P s.stage < s.phase + 1)
    let cursor := if moves then nextPos s.cursor s.dir else s.cursor
    let phase := if moves then 0 else s.phase + 1
    (cursor = s.target → s.stage + 1 ≤ s.P.maxStage →
      exec (.stepActive true r) s = .next { s with
        cursor := cursor, phase := phase, idle := 0, dir := !s.dir, target := r, stage := s.stage + 1 }) ∧
    (cursor = s.target → s.P.maxStage < s.stage + 1 →
      exec (.stepActive true r) s = .next { s with
        cursor := cursor, phase := 0, idle := 0, dir := !s.dir, target := r, stage := s.stage + 1
        state := .win }) ∧
    (cursor ≠ s.target →
      exec (.stepActive true r) s = .next { s with
        cursor := cursor, phase := 0, idle := s.idle + 1, state := .fail })

/-- R92, R100, R101: STEP.FAIL and STEP.WIN count their ticks; past the duration they run the whole GAME_INIT. -/
def Obligations.StepFailAndWinResult : Prop :=
  ∀ (s : State) (r : Nibble),
    let restarted : State := { s with
      state := .init, stage := 0, idle := 0, phase := 0, pass := 0, cursor := s.P.cursorHome, dir := s.P.dirReset
      target := r, btn := { raw := false, cnt := 0, filt := false, prev := false } }
    (s.phase + 1 ≤ s.P.failTicks → exec (.stepFail r) s = .next { s with phase := s.phase + 1 }) ∧
    (s.P.failTicks < s.phase + 1 → exec (.stepFail r) s = .next restarted) ∧
    (s.phase + 1 ≤ s.P.winTicks → exec (.stepWin r) s = .next { s with phase := s.phase + 1 }) ∧
    (s.P.winTicks < s.phase + 1 → exec (.stepWin r) s = .next restarted)

/-- R103: every change of `state` or of the power state a cycle makes is a row of the transition table, under the row's
condition; in every other cycle both hold. (That a sleeping block is in Active, as the row of WAKE has it, is R29 (h): the
row says so of every state that meets the invariants.) -/
def Obligations.TransitionTableIsComplete : Prop :=
  ∀ (w : Byte) (s t : State), cycle w s = .next t →
    let btn := s.btn.debounce s.P.th (!Cyc.btnN w)
    let press := btn.filt && !btn.prev
    let moved := if decide (period s.P s.stage < s.phase + 1) then nextPos s.cursor s.dir else s.cursor
    let ticks := Cyc.rst w = false ∧ s.asleep = false ∧ s.ovf = true
    (t.state = s.state ∧ t.asleep = s.asleep) ∨
    (Cyc.rst w = true ∧ t.state = .init ∧ t.asleep = false) ∨
    (ticks ∧ s.state = .init ∧ t.state = .active ∧ t.asleep = false ∧
      s.P.spinPeriod < s.phase + 1 ∧ nextPos s.cursor s.dir = s.target ∧ s.P.passThreshold < s.pass + 1 ∧
      t.stage = 0 ∧ t.idle = 0 ∧ t.pass = 0 ∧ t.target = Cyc.rnd w) ∨
    (ticks ∧ s.state = .active ∧ t.state = .win ∧ t.asleep = false ∧ press = true ∧ moved = s.target ∧
      s.P.maxStage < s.stage + 1 ∧ t.stage = s.stage + 1 ∧ t.idle = 0 ∧ t.dir = (!s.dir) ∧
      t.target = Cyc.rnd w ∧ t.phase = 0) ∨
    (ticks ∧ s.state = .active ∧ t.state = .fail ∧ t.asleep = false ∧ press = true ∧ moved ≠ s.target ∧
      t.phase = 0) ∨
    (ticks ∧ s.state = .active ∧ t.state = .active ∧ t.asleep = true ∧ press = false ∧
      s.P.idleTimeout < s.idle + 1) ∨
    (Cyc.rst w = false ∧ s.asleep = true ∧ (Inv s → s.state = .active) ∧ Cyc.wake w = true ∧
      t.state = .init ∧ t.asleep = false ∧ t.target = Cyc.rnd w) ∨
    (ticks ∧ s.state = .fail ∧ t.state = .init ∧ t.asleep = false ∧ s.P.failTicks < s.phase + 1 ∧
      t.target = Cyc.rnd w) ∨
    (ticks ∧ s.state = .win ∧ t.state = .init ∧ t.asleep = false ∧ s.P.winTicks < s.phase + 1 ∧
      t.target = Cyc.rnd w)

/-- R105: `stage` is written only with 0 or with its successor, the latter only in an Active tick that stays in Active or
goes to Win, clears `idle`, flips `dir` and draws a target; between two cycles whose `state` is not Init it never
decreases. -/
def Obligations.StageGrowsByHitsOnly : Prop :=
  ∀ (w : Byte) (s t : State), cycle w s = .next t →
    (t.stage = 0 ∨ t.stage = s.stage ∨
      (s.state = .active ∧ s.asleep = false ∧ (t.state = .active ∨ t.state = .win) ∧ t.stage = s.stage + 1 ∧
        t.idle = 0 ∧ t.dir = (!s.dir) ∧ t.target = Cyc.rnd w)) ∧
    (s.state ≠ .init → t.state ≠ .init → s.stage ≤ t.stage)

/-- R104: the draw decides nothing but the new target. With another draw a step operation, RESET and WAKE each give the
same state, or the same but for `target`, which is then the draw. (Of a TICK, whose display may show the new target, this
is the statement about its step operation.) -/
def Obligations.DrawOnlyChoosesTheTarget : Prop :=
  ∀ (s : State) (r r' : Nibble) (p o : Bool) (i : Nibble → Instr),
    (i = .stepInit ∨ i = .stepActive p ∨ i = .stepFail ∨ i = .stepWin ∨ i = .reset ∨ i = .wake o) →
    ∃ t, exec (i r) s = .next t ∧
      (exec (i r') s = .next t ∨ (t.target = r ∧ exec (i r') s = .next { t with target := r' }))

/-! ## Invariants -/

/-- R29, R150 at the start of a run: RESET, from any state and whatever the draw, leaves a state that meets the invariants;
State.reset is one (logs 1 and 5 name its instance and draw). -/
def Obligations.InvHoldsAfterReset : Prop :=
  (∀ (s : State) (r : Nibble), ∃ t, exec (.reset r) s = .next t ∧ Inv t) ∧ Inv State.reset

/-- R29, R150: every step keeps the invariants, from every state that meets them and whatever word the cycle reads. -/
def Obligations.StepKeepsInv : Prop :=
  ∀ s t : State, Inv s → step s = .next t → Inv t

/-- R150: under the invariants every counter, and the incremented counter of the next tick, fits its register, so the
naturals of the model are bit-exact with the registers. -/
def Obligations.CountersFitTheirRegisters : Prop :=
  ∀ s : State, Inv s →
    s.stage < 2 ^ s.P.stageW ∧ s.phase + 1 < 2 ^ s.P.phaseW ∧ s.pass + 1 < 2 ^ s.P.passW ∧
    s.btn.cnt < 2 ^ s.P.cntW ∧ s.idle < 2 ^ s.P.idleW ∧
    (s.state = .active → s.asleep = false → s.stage + 1 < 2 ^ s.P.stageW ∧ s.idle + 1 < 2 ^ s.P.idleW)

/-- R29 (g), R84, R138: under the invariants either no multiplexed pin is an output or exactly two are, one high and one
low; and with an injective table at most one LED is lit, none while asleep. -/
def Obligations.AtMostOneLedIsDriven : Prop :=
  ∀ s : State, Inv s →
    ((∀ k, k < s.P.nMux → pinMode s.ddr s.port (muxBitOf s.P k) = .highZ) ∨
      ∃ d k, d < s.P.nMux ∧ k < s.P.nMux ∧ d ≠ k ∧
        pinMode s.ddr s.port (muxBitOf s.P d) = .outputHigh ∧ pinMode s.ddr s.port (muxBitOf s.P k) = .outputLow ∧
        ∀ l, l < s.P.nMux → l ≠ d → l ≠ k → pinMode s.ddr s.port (muxBitOf s.P l) = .highZ) ∧
    (s.P.injTable = true → (lit s.P s.ddr s.port).length ≤ 1) ∧
    (s.asleep = true → lit s.P s.ddr s.port = [])

/-! ## Runs -/

/-- R120: from Active with `idle = 0`, feed ticks with no press event, whatever the level of the button: ticks 1 to
IDLE_TIMEOUT do not sleep and count up `idle`, tick IDLE_TIMEOUT + 1 sleeps with the LEDs off; one wake word then resumes
in Init with the counters cleared. (A button released, held since before, or bouncing below the threshold has no press
event: QuietButtonHasNoPress.) -/
def Obligations.SleepInTickTimeoutPlusOne : Prop :=
  ∀ (s : State) (ws : List Byte) (wk : Byte),
    s.state = .active → s.asleep = false → s.idle = 0 → s.ovf = true →
    ws.length = s.P.idleTimeout + 1 →
    (∀ w ∈ ws, Cyc.rst w = false ∧ Cyc.ovfSet w = true) →
    noPress s.P.th s.btn (ws.map fun w => !Cyc.btnN w) = true →
    Cyc.rst wk = false → Cyc.wake wk = true →
    (∀ n, n ≤ s.P.idleTimeout → ∃ t, runInputs (ws.take n) s = .next t ∧
      t.state = .active ∧ t.asleep = false ∧ t.idle = n) ∧
    (∃ t, runInputs ws s = .next t ∧
      t.state = .active ∧ t.asleep = true ∧ t.idle = s.P.idleTimeout + 1 ∧ PinsShow none t) ∧
    (∃ t, runInputs (ws ++ [wk]) s = .next t ∧
      t.state = .init ∧ t.asleep = false ∧ t.stage = 0 ∧ t.idle = 0 ∧ t.phase = 0 ∧ t.pass = 0 ∧
      t.target = Cyc.rnd wk)

/-- R119, R137: under `H_WAKE_ONCE`, whichever edge qualifies, the block leaves sleep without a reset only by a WAKE for a
qualifying edge of that sleep (or of the cycle that went to sleep), and after every such edge seen asleep it does leave. -/
def Obligations.WakeOnceEndsEachSleep : Prop :=
  ∀ (e : WakeEdge) (p : PinTrace) (ws : Nat → Byte) (st : Nat → State),
    (∀ n, cycle (ws n) (st n) = .next (st (n + 1))) → HWakeOnce e p (fun n => (st n).asleep) ws →
    (∀ n, (st n).asleep = true → (st (n + 1)).asleep = false → Cyc.rst (ws n) = false →
      Cyc.wake (ws n) = true ∧
        ∃ k, k ≤ n ∧ 1 ≤ p.edges e ws k ∧ ∀ j, k < j → j ≤ n → (st j).asleep = true) ∧
    (∀ n, (st n).asleep = true → 1 ≤ p.edges e ws n →
      ∃ m, n < m ∧ (∀ k, n ≤ k → k < m → (st k).asleep = true) ∧
        (st m).asleep = false ∧ (st m).state = .init)

/-- R100, R101, R106: Fail and Win always end: under a tick in every cycle the state stays through its duration and is Init
in the tick that exceeds it, whatever the button does. -/
def Obligations.FailAndWinEndOnTime : Prop :=
  ∀ (s : State) (ws : List Byte), s.asleep = false → s.ovf = true →
    (∀ w ∈ ws, Cyc.rst w = false ∧ Cyc.ovfSet w = true) →
    (s.state = .fail → s.phase + ws.length = s.P.failTicks + 1 → 1 ≤ ws.length →
      (∀ n, n < ws.length → ∃ t, runInputs (ws.take n) s = .next t ∧ t.state = .fail ∧ t.phase = s.phase + n) ∧
      ∃ t, runInputs ws s = .next t ∧ t.state = .init ∧ t.stage = 0) ∧
    (s.state = .win → s.phase + ws.length = s.P.winTicks + 1 → 1 ≤ ws.length →
      (∀ n, n < ws.length → ∃ t, runInputs (ws.take n) s = .next t ∧ t.state = .win ∧ t.phase = s.phase + n) ∧
      ∃ t, runInputs ws s = .next t ∧ t.state = .init ∧ t.stage = 0)

/-- R106: Init always ends, after at most (PASS_THRESHOLD + 1) * 16 * (SPIN_PERIOD + 1) ticks, whatever the button and the
draws do. -/
def Obligations.InitEndsWithinItsBound : Prop :=
  ∀ (s : State) (ws : List Byte), Inv s → s.state = .init → s.asleep = false → s.ovf = true →
    (∀ w ∈ ws, Cyc.rst w = false ∧ Cyc.ovfSet w = true) →
    ws.length = (s.P.passThreshold + 1) * 16 * (s.P.spinPeriod + 1) →
    ∃ n t, 1 ≤ n ∧ n ≤ ws.length ∧ runInputs (ws.take n) s = .next t ∧ t.state = .active ∧ t.idle = 0

/-- R106, for a button that is never pressed: with ticks arriving forever (`H_TICKS_FOREVER`) and neither a wake edge nor a
reset, every run that starts settled released falls asleep and stays asleep. (With presses the sentence of R106 is not a
consequence of the rules: log 18.) -/
def Obligations.UntouchedBlockFallsAsleepForGood : Prop :=
  ∀ (s : State) (ws : Nat → Byte), Inv s → s.btn.filt = false → HTicksForever ws →
    (∀ n, Cyc.rst (ws n) = false ∧ Cyc.wake (ws n) = false ∧ Cyc.btnN (ws n) = true) →
    ∃ n, ∀ m, n ≤ m → ∃ t, runInputs ((List.range m).map ws) s = .next t ∧ t.asleep = true

/-! ## The script language -/

/-- R52, R53: a line's byte is {rst, wake, ovf, ~press, r[3:0]}, with the rule's examples; then the pseudo-instructions,
each with its expansion and what its lines do. `prime` in a running block with nothing pending is an IDLE that leaves an
overflow pending. Each line of `ticks n` in a running block with one pending performs one TICK with its level and its
draw and leaves the next one pending, so while the block stays awake n lines are n ticks. `drain` in a running block
performs at most one TICK and leaves none pending. `idle n` with none pending changes nothing. (What `drain` and `idle n`
expand to under other flags is the model's choice: log 14.) -/
def Obligations.ScriptLinesAssemble : Prop :=
  (∀ l : ScriptLine, l.word.getLsbD 7 = l.rst ∧ l.word.getLsbD 6 = l.wake ∧ l.word.getLsbD 5 = l.ovf ∧
    l.word.getLsbD 4 = (!l.press) ∧ l.word.extractLsb' 0 4 = l.r) ∧
  (readLine "rst r=10".toList).map ScriptLine.word = some 0x9A ∧
  (readLine "ovf r=0".toList).map ScriptLine.word = some 0x30 ∧
  (readLine "ovf press r=8".toList).map ScriptLine.word = some 0x28 ∧
  (readLine "wake press r=7".toList).map ScriptLine.word = some 0x47 ∧
  (readLine "r=0".toList).map ScriptLine.word = some 0x10 ∧
  (∀ asleep ovf : Bool, ScriptItem.expandWords asleep ovf .prime = some [0x30]) ∧
  (∀ s : State, s.asleep = false → s.ovf = false →
    ovfClr 0x30 s = false ∧ cycle 0x30 s = .next { s with ovf := true }) ∧
  (∀ (n : Nat) (press : Bool) (r : Nibble), ∃ w : Byte,
    w = ScriptLine.word { rst := false, wake := false, ovf := true, press := press, r := r } ∧
    (∀ asleep ovf : Bool, ScriptItem.expandWords asleep ovf (.ticks n press r) = some (List.replicate n w)) ∧
    (∀ s : State, s.asleep = false → s.ovf = true →
      decodeCyc s.asleep s.ovf w = .tick true (!press) r ∧ ∃ t, cycle w s = .next t ∧ t.ovf = true) ∧
    (∀ s : State, s.ovf = true →
      (∀ k, k < n → ∃ t, runInputs (List.replicate k w) s = .next t ∧ t.asleep = false) →
      ticksIn s (List.replicate n w) = n)) ∧
  (∀ s : State, s.asleep = false → ∃ ws t, ScriptItem.expandWords s.asleep s.ovf .drain = some ws ∧
    (∀ w ∈ ws, w = 0x10) ∧ runInputs ws s = .next t ∧ t.ovf = false ∧ ticksIn s ws ≤ 1) ∧
  (∀ n : Nat, ScriptItem.expandWords false false (.idle n) = some (List.replicate n 0x10)) ∧
  (∀ (n : Nat) (s : State), s.asleep = false → s.ovf = false →
    runInputs (List.replicate n 0x10) s = .next (s.withInputs []) ∧ ticksIn s (List.replicate n 0x10) = 0)
end

