-- ==== Sys2Proof/Laws/Params.lean ====
section
/-! SUPPORT. What WF_PARAMS gives (00_scope.md R6), one lemma per fact, and the bits of the port masks. -/

namespace Sys2Proof

/-- The conjuncts of WF_PARAMS. -/
theorem Instance.checks (I : Instance) :
    (I.params.wfThreshold = true ∧ I.params.wfPeriod = true ∧ I.params.wfDisplay = true ∧
      I.params.wfPhaseBits = true ∧ I.params.wfPins = true) ∧
    I.params.wfTable = true ∧ I.params.wfWidths = true := by
  have h := I.ok
  simp only [Params.wf, Bool.and_eq_true] at h
  tauto

/-- R6 item (1). -/
theorem Instance.one_le_th (I : Instance) : 1 ≤ I.params.th := by
  simpa [Params.wfThreshold] using I.checks.1.1

/-- R6 item (2). -/
theorem Instance.period_bounds (I : Instance) :
    1 ≤ I.params.minPeriod ∧ I.params.minPeriod ≤ I.params.basePeriod := by
  simpa [Params.wfPeriod] using I.checks.1.2.1

/-- R6 item (3). -/
theorem Instance.display_bounds (I : Instance) :
    0 < I.params.dispTargetTicks ∧ 2 * I.params.dispTargetTicks < I.params.dispMod := by
  simpa [Params.wfDisplay] using I.checks.1.2.2.1

/-- R6 item (6). -/
theorem Instance.pins (I : Instance) :
    I.params.muxBit.length = I.params.nMux ∧ I.params.muxBit.Nodup ∧ (∀ b ∈ I.params.muxBit, b < 8) ∧
      I.params.btnBit < 8 ∧ I.params.btnBit ∉ I.params.muxBit := by
  simpa [Params.wfPins] using I.checks.1.2.2.2.2

/-- R6 item (8). -/
theorem Instance.widths (I : Instance) :
    I.params.idleTimeout + 1 < 2 ^ I.params.idleW ∧
    max (max I.params.spinPeriod I.params.basePeriod) (max I.params.failTicks I.params.winTicks) + 1 <
      2 ^ I.params.phaseW ∧
    I.params.maxStage + 1 < 2 ^ I.params.stageW ∧ I.params.passThreshold + 1 < 2 ^ I.params.passW ∧
    I.params.th < 2 ^ I.params.cntW := by
  have h := I.checks.2.2
  simp only [Params.wfWidths, decide_eq_true_eq] at h
  exact h

namespace Machine

/-- R6 item (7): each entry names two different multiplexed pins. -/
theorem tableRead_wf (I : Instance) (i : Nibble) :
    (tableRead I.params i).drive < I.params.nMux ∧ (tableRead I.params i).sink < I.params.nMux ∧
      (tableRead I.params i).drive ≠ (tableRead I.params i).sink := by
  have h := I.checks.2.1
  simp only [Params.wfTable, List.all_eq_true, decide_eq_true_eq] at h
  exact h _ (by simp [tableRead])

theorem muxBitOf_mem (I : Instance) {k : Nat} (hk : k < I.params.nMux) :
    muxBitOf I.params k ∈ I.params.muxBit := by
  have hl := I.pins.1
  simp [muxBitOf, List.getElem?_eq_getElem (hl.symm ▸ hk)]

theorem muxBitOf_lt (I : Instance) {k : Nat} (hk : k < I.params.nMux) : muxBitOf I.params k < 8 :=
  I.pins.2.2.1 _ (muxBitOf_mem I hk)

/-- `MUX_BIT` is injective. -/
theorem muxBitOf_inj (I : Instance) {k l : Nat} (hk : k < I.params.nMux) (hl : l < I.params.nMux) :
    muxBitOf I.params k = muxBitOf I.params l ↔ k = l := by
  have hlen := I.pins.1
  rw [muxBitOf, muxBitOf, List.getElem?_eq_getElem (hlen.symm ▸ hk), List.getElem?_eq_getElem (hlen.symm ▸ hl)]
  exact I.pins.2.1.getElem_inj_iff

/-- A bit of MUX_BIT is the bit of a multiplexed pin. -/
theorem mem_muxBit_iff (I : Instance) (b : Nat) :
    b ∈ I.params.muxBit ↔ ∃ k, k < I.params.nMux ∧ muxBitOf I.params k = b := by
  constructor
  · intro h
    obtain ⟨k, hk, rfl⟩ := List.getElem_of_mem h
    exact ⟨k, I.pins.1 ▸ hk, by simp [muxBitOf, List.getElem?_eq_getElem hk]⟩
  · rintro ⟨k, hk, rfl⟩
    exact muxBitOf_mem I hk

/-! ## Bits of the masks -/

@[simp] theorem bitByte_getLsbD (n i : Nat) : (bitByte n).getLsbD i = (decide (i = n) && decide (n < 8)) := by
  by_cases h : i < 8
  · simp only [bitByte, BitVec.getLsbD_shiftLeft, h, decide_true, Bool.true_and, BitVec.getLsbD_one]
    by_cases hin : i = n
    · subst hin; simp [h]
    · simp [hin]; omega
  · rw [BitVec.getLsbD_of_ge _ _ (by omega)]
    simp; omega

theorem muxMask_getLsbD (P : Params) (i : Nat) :
    (muxMask P).getLsbD i = (decide (i ∈ P.muxBit) && decide (i < 8)) := by
  unfold muxMask
  induction P.muxBit with
  | nil => simp
  | cons b bs ih =>
    simp only [List.foldr_cons, BitVec.getLsbD_or, ih, bitByte_getLsbD, List.mem_cons]
    by_cases h : i = b
    · subst h; by_cases h8 : i < 8 <;> simp [h8]
    · simp [h]

/-- The bits of MUX_MASK are exactly those of MUX_BIT. -/
theorem muxMask_bit (I : Instance) (i : Nat) :
    (muxMask I.params).getLsbD i = decide (i ∈ I.params.muxBit) := by
  rw [muxMask_getLsbD]
  by_cases h : i ∈ I.params.muxBit
  · simp [h, I.pins.2.2.1 i h]
  · simp [h]

/-- One bit of a single-bit byte (R140). -/
theorem bitAt_getLsbD (v : Bool) (n i : Nat) :
    (bitAt v n).getLsbD i = (decide (i = n) && decide (n < 8) && v) := by
  cases v <;> simp [bitAt]

end Machine

end Sys2Proof
end

