-- ==== Sys2Proof/Laws/State.lean ====
section
/-! SUPPORT. What each state update leaves in each field: one lemma per field per update. -/

namespace Sys2Proof.Machine

open Sys2Proof

/-- The parameter record in the one spelling the lemmas use. -/
@[simp] theorem State.P_eq (s : State) : s.P = s.inst.params := rfl

/-! ## PortWriteMasked (R33) -/

@[simp] theorem portWriteMasked_inst (m d p : Byte) (s : State) : (portWriteMasked m d p s).inst = s.inst := rfl
@[simp] theorem portWriteMasked_state (m d p : Byte) (s : State) : (portWriteMasked m d p s).state = s.state := rfl
@[simp] theorem portWriteMasked_stage (m d p : Byte) (s : State) : (portWriteMasked m d p s).stage = s.stage := rfl
@[simp] theorem portWriteMasked_cursor (m d p : Byte) (s : State) : (portWriteMasked m d p s).cursor = s.cursor := rfl
@[simp] theorem portWriteMasked_target (m d p : Byte) (s : State) : (portWriteMasked m d p s).target = s.target := rfl
@[simp] theorem portWriteMasked_dir (m d p : Byte) (s : State) : (portWriteMasked m d p s).dir = s.dir := rfl
@[simp] theorem portWriteMasked_phase (m d p : Byte) (s : State) : (portWriteMasked m d p s).phase = s.phase := rfl
@[simp] theorem portWriteMasked_idle (m d p : Byte) (s : State) : (portWriteMasked m d p s).idle = s.idle := rfl
@[simp] theorem portWriteMasked_pass (m d p : Byte) (s : State) : (portWriteMasked m d p s).pass = s.pass := rfl
@[simp] theorem portWriteMasked_btn (m d p : Byte) (s : State) : (portWriteMasked m d p s).btn = s.btn := rfl
@[simp] theorem portWriteMasked_ddr (m d p : Byte) (s : State) : (portWriteMasked m d p s).ddr = (s.ddr &&& ~~~m) ||| (d &&& m) := rfl
@[simp] theorem portWriteMasked_port (m d p : Byte) (s : State) : (portWriteMasked m d p s).port = (s.port &&& ~~~m) ||| (p &&& m) := rfl
@[simp] theorem portWriteMasked_ovf (m d p : Byte) (s : State) : (portWriteMasked m d p s).ovf = s.ovf := rfl
@[simp] theorem portWriteMasked_asleep (m d p : Byte) (s : State) : (portWriteMasked m d p s).asleep = s.asleep := rfl
@[simp] theorem portWriteMasked_inputs (m d p : Byte) (s : State) : (portWriteMasked m d p s).inputs = s.inputs := rfl
@[simp] theorem portWriteMasked_freeReads (m d p : Byte) (s : State) : (portWriteMasked m d p s).freeReads = s.freeReads := rfl

/-! ## GAME_INIT (R92) -/

@[simp] theorem gameInit_inst (r : Nibble) (s : State) : (gameInit r s).inst = s.inst := rfl
@[simp] theorem gameInit_state (r : Nibble) (s : State) : (gameInit r s).state = .init := rfl
@[simp] theorem gameInit_stage (r : Nibble) (s : State) : (gameInit r s).stage = 0 := rfl
@[simp] theorem gameInit_cursor (r : Nibble) (s : State) : (gameInit r s).cursor = s.inst.params.cursorHome := rfl
@[simp] theorem gameInit_target (r : Nibble) (s : State) : (gameInit r s).target = r := rfl
@[simp] theorem gameInit_dir (r : Nibble) (s : State) : (gameInit r s).dir = s.inst.params.dirReset := rfl
@[simp] theorem gameInit_phase (r : Nibble) (s : State) : (gameInit r s).phase = 0 := rfl
@[simp] theorem gameInit_idle (r : Nibble) (s : State) : (gameInit r s).idle = 0 := rfl
@[simp] theorem gameInit_pass (r : Nibble) (s : State) : (gameInit r s).pass = 0 := rfl
@[simp] theorem gameInit_btn (r : Nibble) (s : State) : (gameInit r s).btn = ButtonState.cleared := rfl
@[simp] theorem gameInit_ddr (r : Nibble) (s : State) : (gameInit r s).ddr = s.ddr := rfl
@[simp] theorem gameInit_port (r : Nibble) (s : State) : (gameInit r s).port = s.port := rfl
@[simp] theorem gameInit_ovf (r : Nibble) (s : State) : (gameInit r s).ovf = s.ovf := rfl
@[simp] theorem gameInit_asleep (r : Nibble) (s : State) : (gameInit r s).asleep = s.asleep := rfl
@[simp] theorem gameInit_inputs (r : Nibble) (s : State) : (gameInit r s).inputs = s.inputs := rfl
@[simp] theorem gameInit_freeReads (r : Nibble) (s : State) : (gameInit r s).freeReads = s.freeReads := rfl

/-! ## SLEEP (R116) -/

@[simp] theorem sleep_inst (s : State) : (sleep s).inst = s.inst := rfl
@[simp] theorem sleep_state (s : State) : (sleep s).state = s.state := rfl
@[simp] theorem sleep_stage (s : State) : (sleep s).stage = s.stage := rfl
@[simp] theorem sleep_cursor (s : State) : (sleep s).cursor = s.cursor := rfl
@[simp] theorem sleep_target (s : State) : (sleep s).target = s.target := rfl
@[simp] theorem sleep_dir (s : State) : (sleep s).dir = s.dir := rfl
@[simp] theorem sleep_phase (s : State) : (sleep s).phase = s.phase := rfl
@[simp] theorem sleep_idle (s : State) : (sleep s).idle = s.idle := rfl
@[simp] theorem sleep_pass (s : State) : (sleep s).pass = s.pass := rfl
@[simp] theorem sleep_btn (s : State) : (sleep s).btn = s.btn := rfl
@[simp] theorem sleep_ddr (s : State) : (sleep s).ddr = s.ddr := rfl
@[simp] theorem sleep_port (s : State) : (sleep s).port = s.port := rfl
@[simp] theorem sleep_ovf (s : State) : (sleep s).ovf = s.ovf := rfl
@[simp] theorem sleep_asleep (s : State) : (sleep s).asleep = true := rfl
@[simp] theorem sleep_inputs (s : State) : (sleep s).inputs = s.inputs := rfl
@[simp] theorem sleep_freeReads (s : State) : (sleep s).freeReads = s.freeReads := rfl

/-! ## DEBOUNCE (R70) -/

@[simp] theorem debounce_inst (b : Bool) (s : State) : (debounce b s).inst = s.inst := rfl
@[simp] theorem debounce_state (b : Bool) (s : State) : (debounce b s).state = s.state := rfl
@[simp] theorem debounce_stage (b : Bool) (s : State) : (debounce b s).stage = s.stage := rfl
@[simp] theorem debounce_cursor (b : Bool) (s : State) : (debounce b s).cursor = s.cursor := rfl
@[simp] theorem debounce_target (b : Bool) (s : State) : (debounce b s).target = s.target := rfl
@[simp] theorem debounce_dir (b : Bool) (s : State) : (debounce b s).dir = s.dir := rfl
@[simp] theorem debounce_phase (b : Bool) (s : State) : (debounce b s).phase = s.phase := rfl
@[simp] theorem debounce_idle (b : Bool) (s : State) : (debounce b s).idle = s.idle := rfl
@[simp] theorem debounce_pass (b : Bool) (s : State) : (debounce b s).pass = s.pass := rfl
@[simp] theorem debounce_btn (b : Bool) (s : State) : (debounce b s).btn = s.btn.debounce s.inst.params.th b := rfl
@[simp] theorem debounce_ddr (b : Bool) (s : State) : (debounce b s).ddr = s.ddr := rfl
@[simp] theorem debounce_port (b : Bool) (s : State) : (debounce b s).port = s.port := rfl
@[simp] theorem debounce_ovf (b : Bool) (s : State) : (debounce b s).ovf = s.ovf := rfl
@[simp] theorem debounce_asleep (b : Bool) (s : State) : (debounce b s).asleep = s.asleep := rfl
@[simp] theorem debounce_inputs (b : Bool) (s : State) : (debounce b s).inputs = s.inputs := rfl
@[simp] theorem debounce_freeReads (b : Bool) (s : State) : (debounce b s).freeReads = s.freeReads := rfl

/-! ## The end-of-tick update (R72) -/

@[simp] theorem commitPrev_inst (s : State) : (commitPrev s).inst = s.inst := rfl
@[simp] theorem commitPrev_state (s : State) : (commitPrev s).state = s.state := rfl
@[simp] theorem commitPrev_stage (s : State) : (commitPrev s).stage = s.stage := rfl
@[simp] theorem commitPrev_cursor (s : State) : (commitPrev s).cursor = s.cursor := rfl
@[simp] theorem commitPrev_target (s : State) : (commitPrev s).target = s.target := rfl
@[simp] theorem commitPrev_dir (s : State) : (commitPrev s).dir = s.dir := rfl
@[simp] theorem commitPrev_phase (s : State) : (commitPrev s).phase = s.phase := rfl
@[simp] theorem commitPrev_idle (s : State) : (commitPrev s).idle = s.idle := rfl
@[simp] theorem commitPrev_pass (s : State) : (commitPrev s).pass = s.pass := rfl
@[simp] theorem commitPrev_btn (s : State) : (commitPrev s).btn = s.btn.commitPrev := rfl
@[simp] theorem commitPrev_ddr (s : State) : (commitPrev s).ddr = s.ddr := rfl
@[simp] theorem commitPrev_port (s : State) : (commitPrev s).port = s.port := rfl
@[simp] theorem commitPrev_ovf (s : State) : (commitPrev s).ovf = s.ovf := rfl
@[simp] theorem commitPrev_asleep (s : State) : (commitPrev s).asleep = s.asleep := rfl
@[simp] theorem commitPrev_inputs (s : State) : (commitPrev s).inputs = s.inputs := rfl
@[simp] theorem commitPrev_freeReads (s : State) : (commitPrev s).freeReads = s.freeReads := rfl

/-! ## The overflow latch (R61) -/

@[simp] theorem latchOvf_inst (o : Bool) (s : State) : (latchOvf o s).inst = s.inst := rfl
@[simp] theorem latchOvf_state (o : Bool) (s : State) : (latchOvf o s).state = s.state := rfl
@[simp] theorem latchOvf_stage (o : Bool) (s : State) : (latchOvf o s).stage = s.stage := rfl
@[simp] theorem latchOvf_cursor (o : Bool) (s : State) : (latchOvf o s).cursor = s.cursor := rfl
@[simp] theorem latchOvf_target (o : Bool) (s : State) : (latchOvf o s).target = s.target := rfl
@[simp] theorem latchOvf_dir (o : Bool) (s : State) : (latchOvf o s).dir = s.dir := rfl
@[simp] theorem latchOvf_phase (o : Bool) (s : State) : (latchOvf o s).phase = s.phase := rfl
@[simp] theorem latchOvf_idle (o : Bool) (s : State) : (latchOvf o s).idle = s.idle := rfl
@[simp] theorem latchOvf_pass (o : Bool) (s : State) : (latchOvf o s).pass = s.pass := rfl
@[simp] theorem latchOvf_btn (o : Bool) (s : State) : (latchOvf o s).btn = s.btn := rfl
@[simp] theorem latchOvf_ddr (o : Bool) (s : State) : (latchOvf o s).ddr = s.ddr := rfl
@[simp] theorem latchOvf_port (o : Bool) (s : State) : (latchOvf o s).port = s.port := rfl
@[simp] theorem latchOvf_ovf (o : Bool) (s : State) : (latchOvf o s).ovf = (s.ovf || o) := rfl
@[simp] theorem latchOvf_false (s : State) : latchOvf false s = s := by simp [latchOvf]
@[simp] theorem latchOvf_asleep (o : Bool) (s : State) : (latchOvf o s).asleep = s.asleep := rfl
@[simp] theorem latchOvf_inputs (o : Bool) (s : State) : (latchOvf o s).inputs = s.inputs := rfl
@[simp] theorem latchOvf_freeReads (o : Bool) (s : State) : (latchOvf o s).freeReads = s.freeReads := rfl

/-! ## The acknowledge (R63) -/

@[simp] theorem ackOvf_inst (s : State) : (ackOvf s).inst = s.inst := rfl
@[simp] theorem ackOvf_state (s : State) : (ackOvf s).state = s.state := rfl
@[simp] theorem ackOvf_stage (s : State) : (ackOvf s).stage = s.stage := rfl
@[simp] theorem ackOvf_cursor (s : State) : (ackOvf s).cursor = s.cursor := rfl
@[simp] theorem ackOvf_target (s : State) : (ackOvf s).target = s.target := rfl
@[simp] theorem ackOvf_dir (s : State) : (ackOvf s).dir = s.dir := rfl
@[simp] theorem ackOvf_phase (s : State) : (ackOvf s).phase = s.phase := rfl
@[simp] theorem ackOvf_idle (s : State) : (ackOvf s).idle = s.idle := rfl
@[simp] theorem ackOvf_pass (s : State) : (ackOvf s).pass = s.pass := rfl
@[simp] theorem ackOvf_btn (s : State) : (ackOvf s).btn = s.btn := rfl
@[simp] theorem ackOvf_ddr (s : State) : (ackOvf s).ddr = s.ddr := rfl
@[simp] theorem ackOvf_port (s : State) : (ackOvf s).port = s.port := rfl
@[simp] theorem ackOvf_ovf (s : State) : (ackOvf s).ovf = false := rfl
@[simp] theorem ackOvf_asleep (s : State) : (ackOvf s).asleep = s.asleep := rfl
@[simp] theorem ackOvf_inputs (s : State) : (ackOvf s).inputs = s.inputs := rfl
@[simp] theorem ackOvf_freeReads (s : State) : (ackOvf s).freeReads = s.freeReads := rfl

/-! ## ACTIVE.COUNT (R96) -/

@[simp] theorem activeCount_inst (s : State) : (activeCount s).inst = s.inst := rfl
@[simp] theorem activeCount_state (s : State) : (activeCount s).state = s.state := rfl
@[simp] theorem activeCount_stage (s : State) : (activeCount s).stage = s.stage := rfl
@[simp] theorem activeCount_cursor (s : State) : (activeCount s).cursor = s.cursor := rfl
@[simp] theorem activeCount_target (s : State) : (activeCount s).target = s.target := rfl
@[simp] theorem activeCount_dir (s : State) : (activeCount s).dir = s.dir := rfl
@[simp] theorem activeCount_phase (s : State) : (activeCount s).phase = s.phase := rfl
@[simp] theorem activeCount_idle (s : State) : (activeCount s).idle = s.idle + 1 := rfl
@[simp] theorem activeCount_pass (s : State) : (activeCount s).pass = s.pass := rfl
@[simp] theorem activeCount_btn (s : State) : (activeCount s).btn = s.btn := rfl
@[simp] theorem activeCount_ddr (s : State) : (activeCount s).ddr = s.ddr := rfl
@[simp] theorem activeCount_port (s : State) : (activeCount s).port = s.port := rfl
@[simp] theorem activeCount_ovf (s : State) : (activeCount s).ovf = s.ovf := rfl
@[simp] theorem activeCount_asleep (s : State) : (activeCount s).asleep = s.asleep := rfl
@[simp] theorem activeCount_inputs (s : State) : (activeCount s).inputs = s.inputs := rfl
@[simp] theorem activeCount_freeReads (s : State) : (activeCount s).freeReads = s.freeReads := rfl

/-! ## RESET (R140) -/

@[simp] theorem reset_inst (r : Nibble) (s : State) : (reset r s).inst = s.inst := rfl
@[simp] theorem reset_state (r : Nibble) (s : State) : (reset r s).state = .init := rfl
@[simp] theorem reset_stage (r : Nibble) (s : State) : (reset r s).stage = 0 := rfl
@[simp] theorem reset_cursor (r : Nibble) (s : State) : (reset r s).cursor = s.inst.params.cursorHome := rfl
@[simp] theorem reset_target (r : Nibble) (s : State) : (reset r s).target = r := rfl
@[simp] theorem reset_dir (r : Nibble) (s : State) : (reset r s).dir = s.inst.params.dirReset := rfl
@[simp] theorem reset_phase (r : Nibble) (s : State) : (reset r s).phase = 0 := rfl
@[simp] theorem reset_idle (r : Nibble) (s : State) : (reset r s).idle = 0 := rfl
@[simp] theorem reset_pass (r : Nibble) (s : State) : (reset r s).pass = 0 := rfl
@[simp] theorem reset_btn (r : Nibble) (s : State) : (reset r s).btn = ButtonState.cleared := rfl
@[simp] theorem reset_ddr (r : Nibble) (s : State) : (reset r s).ddr = bitAt s.inst.params.btnDdrReset s.inst.params.btnBit := rfl
@[simp] theorem reset_port (r : Nibble) (s : State) : (reset r s).port = bitAt s.inst.params.btnPortReset s.inst.params.btnBit := rfl
@[simp] theorem reset_ovf (r : Nibble) (s : State) : (reset r s).ovf = false := rfl
@[simp] theorem reset_asleep (r : Nibble) (s : State) : (reset r s).asleep = false := rfl
@[simp] theorem reset_inputs (r : Nibble) (s : State) : (reset r s).inputs = s.inputs := rfl
@[simp] theorem reset_freeReads (r : Nibble) (s : State) : (reset r s).freeReads = s.freeReads := rfl

/-! ## Lining up input words -/

@[simp] theorem withInputs_inst (ws : List Byte) (s : State) : (s.withInputs ws).inst = s.inst := rfl
@[simp] theorem withInputs_state (ws : List Byte) (s : State) : (s.withInputs ws).state = s.state := rfl
@[simp] theorem withInputs_stage (ws : List Byte) (s : State) : (s.withInputs ws).stage = s.stage := rfl
@[simp] theorem withInputs_cursor (ws : List Byte) (s : State) : (s.withInputs ws).cursor = s.cursor := rfl
@[simp] theorem withInputs_target (ws : List Byte) (s : State) : (s.withInputs ws).target = s.target := rfl
@[simp] theorem withInputs_dir (ws : List Byte) (s : State) : (s.withInputs ws).dir = s.dir := rfl
@[simp] theorem withInputs_phase (ws : List Byte) (s : State) : (s.withInputs ws).phase = s.phase := rfl
@[simp] theorem withInputs_idle (ws : List Byte) (s : State) : (s.withInputs ws).idle = s.idle := rfl
@[simp] theorem withInputs_pass (ws : List Byte) (s : State) : (s.withInputs ws).pass = s.pass := rfl
@[simp] theorem withInputs_btn (ws : List Byte) (s : State) : (s.withInputs ws).btn = s.btn := rfl
@[simp] theorem withInputs_ddr (ws : List Byte) (s : State) : (s.withInputs ws).ddr = s.ddr := rfl
@[simp] theorem withInputs_port (ws : List Byte) (s : State) : (s.withInputs ws).port = s.port := rfl
@[simp] theorem withInputs_ovf (ws : List Byte) (s : State) : (s.withInputs ws).ovf = s.ovf := rfl
@[simp] theorem withInputs_asleep (ws : List Byte) (s : State) : (s.withInputs ws).asleep = s.asleep := rfl
@[simp] theorem withInputs_inputs (ws : List Byte) (s : State) : (s.withInputs ws).inputs = ws := rfl
@[simp] theorem withInputs_freeReads (ws : List Byte) (s : State) : (s.withInputs ws).freeReads = s.freeReads := rfl

/-! ## ButtonState -/

@[simp] theorem debounce_raw (th : Nat) (b : Bool) (btn : ButtonState) : (btn.debounce th b).raw = b := rfl

@[simp] theorem debounce_cnt (th : Nat) (b : Bool) (btn : ButtonState) :
    (btn.debounce th b).cnt = debounceCount th b btn.cnt := rfl

@[simp] theorem debounce_prev (th : Nat) (b : Bool) (btn : ButtonState) :
    (btn.debounce th b).prev = btn.prev := rfl

@[simp] theorem buttonCommit_prev (btn : ButtonState) : btn.commitPrev.prev = btn.filt := rfl

@[simp] theorem buttonCommit_filt (btn : ButtonState) : btn.commitPrev.filt = btn.filt := rfl

@[simp] theorem buttonCommit_cnt (btn : ButtonState) : btn.commitPrev.cnt = btn.cnt := rfl

@[simp] theorem buttonCommit_raw (btn : ButtonState) : btn.commitPrev.raw = btn.raw := rfl

end Sys2Proof.Machine
end

