-- ==== Sys2Proof/Laws/Ops.lean ====
section
/-! SUPPORT. What each shared operation can do, said once: the LED write, the four step operations, the parts of
STEP.ACTIVE, and the fetch. -/

namespace Sys2Proof.Machine

open Sys2Proof

/-! ## Encodings of the LED command (R49) -/

@[simp] theorem led_en_set (i : Nibble) : Led.en (Led.set i) = true := by revert i; decide

@[simp] theorem led_idx_set (i : Nibble) : Led.idx (Led.set i) = i := by revert i; decide

@[simp] theorem led_en_off : Led.en Led.off = false := by decide

@[simp] theorem cmdIndex_set (i : Nibble) : cmdIndex (Led.set i) = some i := by simp [cmdIndex]

@[simp] theorem cmdIndex_off : cmdIndex Led.off = none := by simp [cmdIndex]

/-! ## The LED write (R80 to R82) -/

/-- The masked value and level bytes of an LED command, `none` being LED.OFF (R80, R81). -/
def muxImage (P : Params) : Option Nibble → Byte × Byte
  | some i => (drvByte P i ||| snkByte P i, drvByte P i)
  | none   => (0, 0)

/-- LEDWRITE is one masked write of the command's image. -/
theorem ledWrite_eq (cmd : BitVec 5) (s : State) :
    ledWrite cmd s =
      portWriteMasked (muxMask s.P) (muxImage s.P (cmdIndex cmd)).1 (muxImage s.P (cmdIndex cmd)).2 s := by
  unfold ledWrite cmdIndex
  split <;> rfl

/-- LED.SET is LEDWRITE of its own command word. -/
theorem ledSet_eq_ledWrite (i : Nibble) (s : State) : ledSet i s = ledWrite (Led.set i) s := by
  simp [ledWrite]

/-- LED.OFF is LEDWRITE of its canonical command word. -/
theorem ledOff_eq_ledWrite (s : State) : ledOff s = ledWrite Led.off s := by simp [ledWrite]

/-- What the LED write leaves alone: everything but the two port bytes. -/
theorem ledWrite_frame (cmd : BitVec 5) (s : State) :
    ledWrite cmd s = { s with ddr := (ledWrite cmd s).ddr, port := (ledWrite cmd s).port } := by
  rw [ledWrite_eq]; rfl

/-- One bit of a masked write (R33). -/
theorem masked_getLsbD (x v m : Byte) (n : Nat) :
    ((x &&& ~~~m) ||| (v &&& m)).getLsbD n = if m.getLsbD n then v.getLsbD n else x.getLsbD n := by
  by_cases hn : n < 8
  · simp only [BitVec.getLsbD_and, BitVec.getLsbD_or, BitVec.getLsbD_not, hn]
    cases x.getLsbD n <;> cases v.getLsbD n <;> cases m.getLsbD n <;> rfl
  · simp [BitVec.getLsbD_of_ge _ _ (Nat.le_of_not_lt hn)]

/-- An LED write keeps every bit of no multiplexed pin (R83). -/
theorem ledWrite_other (cmd : BitVec 5) (s : State) : OtherPinsKept s (ledWrite cmd s) := by
  intro n hn
  rw [ledWrite_eq]
  have hm : (muxMask s.P).getLsbD n = false := by rw [muxMask_bit]; simpa using hn
  simp only [portWriteMasked_ddr, portWriteMasked_port, masked_getLsbD, hm]
  exact ⟨rfl, rfl⟩

/-- A bit of the byte of multiplexed pin l, at multiplexed pin k. -/
theorem bitByte_at_pin (I : Instance) {k l : Nat} (hk : k < I.params.nMux) (hl : l < I.params.nMux) :
    (bitByte (muxBitOf I.params l)).getLsbD (muxBitOf I.params k) = decide (k = l) := by
  have h8 := muxBitOf_lt I hl
  simp [muxBitOf_inj I hk hl, h8]

/-- After an LED write the multiplexed pins show the command (R80, R81, R29 g). -/
theorem ledWrite_pins (cmd : BitVec 5) (s : State) : PinsShow (cmdIndex cmd) (ledWrite cmd s) := by
  intro k hk
  have hk : k < s.inst.params.nMux := by rw [ledWrite_frame] at hk; exact hk
  have hm : (muxMask s.inst.params).getLsbD (muxBitOf s.inst.params k) = true := by
    rw [muxMask_bit]; simpa using muxBitOf_mem s.inst hk
  rw [ledWrite_eq]
  simp only [State.P_eq, pinMode, portWriteMasked_ddr, portWriteMasked_port, portWriteMasked_inst, masked_getLsbD,
    hm, if_true]
  cases cmdIndex cmd with
  | none => simp [muxImage]
  | some i =>
    obtain ⟨hd, hs, hne⟩ := tableRead_wf s.inst i
    simp only [muxImage, drvByte, snkByte, BitVec.getLsbD_or, bitByte_at_pin s.inst hk hd,
      bitByte_at_pin s.inst hk hs]
    by_cases h1 : k = (tableRead s.inst.params i).drive
    · simp [h1]
    · by_cases h2 : k = (tableRead s.inst.params i).sink
      · have h3 : (tableRead s.inst.params i).sink ≠ (tableRead s.inst.params i).drive := fun h => hne h.symm
        simp [h2, h3]
      · simp [h1, h2]

/-! ## The step operations (R94 to R101) -/

/-- STEP.INIT holds, moves, counts a landing, or leaves for Active (R94). -/
theorem stepInit_cases (r : Nibble) (s : State) :
    (s.phase + 1 ≤ s.P.spinPeriod ∧ stepInit r s = { s with phase := s.phase + 1 }) ∨
    (s.P.spinPeriod < s.phase + 1 ∧ nextPos s.cursor s.dir ≠ s.target ∧
      stepInit r s = { s with phase := 0, cursor := nextPos s.cursor s.dir }) ∨
    (s.P.spinPeriod < s.phase + 1 ∧ nextPos s.cursor s.dir = s.target ∧ s.pass + 1 ≤ s.P.passThreshold ∧
      stepInit r s = { s with phase := 0, cursor := nextPos s.cursor s.dir, pass := s.pass + 1 }) ∨
    (s.P.spinPeriod < s.phase + 1 ∧ nextPos s.cursor s.dir = s.target ∧ s.P.passThreshold < s.pass + 1 ∧
      stepInit r s = { s with
        phase := 0, cursor := nextPos s.cursor s.dir, state := .active, stage := 0, idle := 0, pass := 0
        target := r }) := by
  by_cases h1 : s.P.spinPeriod < s.phase + 1
  · by_cases h2 : nextPos s.cursor s.dir = s.target
    · by_cases h3 : s.P.passThreshold < s.pass + 1
      · exact .inr (.inr (.inr ⟨h1, h2, h3, by simp [stepInit, h1, h2, h3]⟩))
      · exact .inr (.inr (.inl ⟨h1, h2, by omega, by simp [stepInit, h1, h2, h3]⟩))
    · exact .inr (.inl ⟨h1, h2, by simp [stepInit, h1, h2]⟩)
  · exact .inl ⟨by omega, by simp [stepInit, h1]⟩

/-- ACTIVE.MOVE holds or moves (R97). -/
theorem activeMove_cases (s : State) :
    (s.phase + 1 ≤ period s.P s.stage ∧ activeMove s = { s with phase := s.phase + 1 }) ∨
    (period s.P s.stage < s.phase + 1 ∧
      activeMove s = { s with phase := 0, cursor := nextPos s.cursor s.dir }) := by
  by_cases h : period s.P s.stage < s.phase + 1
  · exact .inr ⟨h, by simp [activeMove, h]⟩
  · exact .inl ⟨by omega, by simp [activeMove, h]⟩

/-- ACTIVE.PRESS is a hit that stays, a hit that wins, or a miss (R98). -/
theorem activePress_cases (r : Nibble) (s : State) :
    (s.cursor = s.target ∧ s.stage + 1 ≤ s.P.maxStage ∧
      activePress r s = { s with idle := 0, dir := !s.dir, target := r, stage := s.stage + 1 }) ∨
    (s.cursor = s.target ∧ s.P.maxStage < s.stage + 1 ∧
      activePress r s = { s with
        idle := 0, dir := !s.dir, target := r, stage := s.stage + 1, state := .win, phase := 0 }) ∨
    (s.cursor ≠ s.target ∧ activePress r s = { s with state := .fail, phase := 0 }) := by
  by_cases h : s.cursor = s.target
  · by_cases h2 : s.P.maxStage < s.stage + 1
    · exact .inr (.inl ⟨h, h2, by simp [activePress, h, h2]⟩)
    · exact .inl ⟨h, by omega, by simp [activePress, h, h2]⟩
  · exact .inr (.inr ⟨h, by simp [activePress, h]⟩)

/-- ACTIVE.TIMEOUT sleeps or does nothing (R99). -/
theorem activeTimeout_cases (s : State) :
    (s.state = .active ∧ s.P.idleTimeout < s.idle ∧ activeTimeout s = { s with asleep := true }) ∨
    (¬ (s.state = .active ∧ s.P.idleTimeout < s.idle) ∧ activeTimeout s = s) := by
  by_cases h : s.state = .active ∧ s.P.idleTimeout < s.idle
  · exact .inl ⟨h.1, h.2, by rw [activeTimeout, if_pos h]; rfl⟩
  · exact .inr ⟨h, by rw [activeTimeout, if_neg h]⟩

/-- STEP.FAIL counts or ends (R100). -/
theorem stepFail_cases (r : Nibble) (s : State) :
    (s.phase + 1 ≤ s.P.failTicks ∧ stepFail r s = { s with phase := s.phase + 1 }) ∨
    (s.P.failTicks < s.phase + 1 ∧ stepFail r s = gameInit r s) := by
  by_cases h : s.P.failTicks < s.phase + 1
  · exact .inr ⟨h, by simp [stepFail, h, gameInit]⟩
  · exact .inl ⟨by omega, by simp [stepFail, h]⟩

/-- STEP.WIN counts or ends (R101). -/
theorem stepWin_cases (r : Nibble) (s : State) :
    (s.phase + 1 ≤ s.P.winTicks ∧ stepWin r s = { s with phase := s.phase + 1 }) ∨
    (s.P.winTicks < s.phase + 1 ∧ stepWin r s = gameInit r s) := by
  by_cases h : s.P.winTicks < s.phase + 1
  · exact .inr ⟨h, by simp [stepWin, h, gameInit]⟩
  · exact .inl ⟨by omega, by simp [stepWin, h]⟩

/-- What STEP.ACTIVE does not write: the port bytes, `ovf`, and what the host owns (R95 to R99). -/
theorem stepActive_frame (p : Bool) (r : Nibble) (s : State) :
    SamePort s (stepActive p r s) ∧ SameHost s (stepActive p r s) := by
  have move : SamePort s (activeMove (activeCount s)) ∧ SameHost s (activeMove (activeCount s)) := by
    obtain ⟨-, h⟩ | ⟨-, h⟩ := activeMove_cases (activeCount s) <;> simp [h, SamePort, SameHost]
  have press : ∀ t, SamePort s t ∧ SameHost s t →
      SamePort s (activePress r t) ∧ SameHost s (activePress r t) := by
    intro t ht
    obtain ⟨-, -, h⟩ | ⟨-, -, h⟩ | ⟨-, h⟩ := activePress_cases r t <;> rw [h] <;> exact ht
  have timeout : ∀ t, SamePort s t ∧ SameHost s t →
      SamePort s (activeTimeout t) ∧ SameHost s (activeTimeout t) := by
    intro t ht
    obtain ⟨-, -, h⟩ | ⟨-, h⟩ := activeTimeout_cases t <;> rw [h] <;> exact ht
  unfold stepActive
  cases p
  · exact timeout _ move
  · exact timeout _ (press _ move)

/-- What no step operation writes: the port bytes, `ovf`, and what the host owns (R92 to R101). -/
theorem gameStep_frame (p : Bool) (r : Nibble) (s : State) :
    SamePort s (gameStep p r s) ∧ SameHost s (gameStep p r s) := by
  unfold gameStep
  split
  · obtain ⟨-, h⟩ | ⟨-, -, h⟩ | ⟨-, -, -, h⟩ | ⟨-, -, -, h⟩ := stepInit_cases r s <;>
      simp [h, SamePort, SameHost]
  · exact stepActive_frame p r s
  · obtain ⟨-, h⟩ | ⟨-, h⟩ := stepFail_cases r s <;> simp [h, SamePort, SameHost]
  · obtain ⟨-, h⟩ | ⟨-, h⟩ := stepWin_cases r s <;> simp [h, SamePort, SameHost]

/-! ## The debouncer (R70 to R72) -/

/-- The count after DEBOUNCE (R70): up below the threshold, down above zero, else held. -/
theorem debounceCount_cases (th : Nat) (b : Bool) (c : Nat) :
    (b = true ∧ c < th ∧ debounceCount th b c = c + 1) ∨
    (b = false ∧ 0 < c ∧ debounceCount th b c = c - 1) ∨
    (debounceCount th b c = c ∧ (b = true → th ≤ c) ∧ (b = false → c = 0)) := by
  unfold debounceCount
  cases b <;> by_cases h : c < th <;> by_cases h0 : 0 < c <;> simp [h, h0] <;> omega

/-- The level after DEBOUNCE (R70), tested on the updated count. -/
theorem debounce_filt (th : Nat) (b : Bool) (btn : ButtonState) :
    (btn.debounce th b).filt =
      if debounceCount th b btn.cnt = th then true
      else if debounceCount th b btn.cnt = 0 then false else btn.filt := rfl

/-! ## The fetch -/

/-- A word lined up is the one the cycle reads. -/
@[simp] theorem fetch_withInputs_cons (s : State) (w : Byte) (ws : List Byte) :
    fetch (s.withInputs (w :: ws)) = (w, s.withInputs ws) := rfl

/-- The fetch changes only what the host owns. -/
theorem fetch_registers (s : State) :
    (fetch s).2 = { s with inputs := (fetch s).2.inputs, freeReads := (fetch s).2.freeReads } := by
  unfold fetch
  split <;> rfl

end Sys2Proof.Machine
end

