-- ==== Sys2Proof/Laws/PerInstr.lean ====
section
/-! SUPPORT. Per-instruction laws. `TableRow`: the word the encoder writes lies in the operation's row of
spec/opcode_table.json, and re-reading it under its format loses no bit. -/

namespace Sys2Proof.Laws

open Sys2Proof

/-- The encoder's word has the row's format and width, and its fixed bits are the row's match (R47 to R49). -/
def TableRow.Statement (i : Instr) : Prop :=
  (encode i).format = (opcodeRow i).format ∧
  (encode i).toNat < 2 ^ (opcodeRow i).width ∧
  (encode i).toNat &&& (opcodeRow i).mask = (opcodeRow i).value

namespace TableRow

theorem reset (r : Nibble) : Statement (.reset r) := by revert r; unfold Statement; decide

theorem wake (ovfSet : Bool) (r : Nibble) : Statement (.wake ovfSet r) := by
  revert ovfSet r; unfold Statement; decide

theorem hold (ovfSet : Bool) : Statement (.hold ovfSet) := by revert ovfSet; unfold Statement; decide

theorem tick (ovfSet btnN : Bool) (r : Nibble) : Statement (.tick ovfSet btnN r) := by
  revert ovfSet btnN r; unfold Statement; decide

theorem idle (ovfSet : Bool) : Statement (.idle ovfSet) := by revert ovfSet; unfold Statement; decide

theorem stepInit (r : Nibble) : Statement (.stepInit r) := by unfold Statement; decide +revert

theorem stepActive (press : Bool) (r : Nibble) : Statement (.stepActive press r) := by
  unfold Statement; decide +revert

theorem stepFail (r : Nibble) : Statement (.stepFail r) := by unfold Statement; decide +revert

theorem stepWin (r : Nibble) : Statement (.stepWin r) := by unfold Statement; decide +revert

theorem ledSet (idx : Nibble) : Statement (.ledSet idx) := by revert idx; unfold Statement; decide

theorem ledOff : Statement .ledOff := by unfold Statement; decide

end TableRow

end Sys2Proof.Laws
end

