-- ==== Sys2Proof/Laws/Step.lean ====
section
/-! SUPPORT. What exec, a cycle, a step and a run answer, in terms of the operations' pseudocode. -/

namespace Sys2Proof.Machine

open Sys2Proof

/-! ## exec, one lemma per operation -/

theorem exec_reset (r : Nibble) (s : State) : exec (.reset r) s = .next (reset r s) := rfl

theorem exec_wake (o : Bool) (r : Nibble) (s : State) :
    exec (.wake o r) s = .next (latchOvf o (wake r s)) := rfl

theorem exec_hold (o : Bool) (s : State) : exec (.hold o) s = .next (latchOvf o s) := rfl

theorem exec_tick (o b : Bool) (r : Nibble) (s : State) :
    exec (.tick o b r) s = .next (latchOvf o (tick (rawLevel b) r s)) := rfl

theorem exec_idle (o : Bool) (s : State) : exec (.idle o) s = .next (latchOvf o s) := rfl

theorem exec_stepInit (r : Nibble) (s : State) : exec (.stepInit r) s = .next (stepInit r s) := rfl

theorem exec_stepActive (p : Bool) (r : Nibble) (s : State) :
    exec (.stepActive p r) s = .next (stepActive p r s) := rfl

theorem exec_stepFail (r : Nibble) (s : State) : exec (.stepFail r) s = .next (stepFail r s) := rfl

theorem exec_stepWin (r : Nibble) (s : State) : exec (.stepWin r) s = .next (stepWin r s) := rfl

theorem exec_ledSet (i : Nibble) (s : State) : exec (.ledSet i) s = .next (ledSet i s) := rfl

theorem exec_ledOff (s : State) : exec .ledOff s = .next (ledOff s) := rfl

/-! ## The cycle -/

theorem cycle_reset {w : Byte} {s : State} (hr : Cyc.rst w = true) :
    cycle w s = .next (reset (Cyc.rnd w) s) := by
  simp only [cycle, decodeCyc, hr, if_true]; rfl

theorem cycle_wake {w : Byte} {s : State} (hr : Cyc.rst w = false) (ha : s.asleep = true)
    (hw : Cyc.wake w = true) : cycle w s = .next (latchOvf (Cyc.ovfSet w) (wake (Cyc.rnd w) s)) := by
  simp only [cycle, decodeCyc, hr, ha, hw, if_true, Bool.false_eq_true, if_false]; rfl

theorem cycle_hold {w : Byte} {s : State} (hr : Cyc.rst w = false) (ha : s.asleep = true)
    (hw : Cyc.wake w = false) : cycle w s = .next (latchOvf (Cyc.ovfSet w) s) := by
  simp only [cycle, decodeCyc, hr, ha, hw, if_true, Bool.false_eq_true, if_false]; rfl

theorem cycle_tick {w : Byte} {s : State} (hr : Cyc.rst w = false) (ha : s.asleep = false)
    (ho : s.ovf = true) :
    cycle w s = .next (latchOvf (Cyc.ovfSet w) (tick (rawLevel (Cyc.btnN w)) (Cyc.rnd w) s)) := by
  simp only [cycle, decodeCyc, hr, ha, ho, if_true, Bool.false_eq_true, if_false]; rfl

theorem cycle_idle {w : Byte} {s : State} (hr : Cyc.rst w = false) (ha : s.asleep = false)
    (ho : s.ovf = false) : cycle w s = .next (latchOvf (Cyc.ovfSet w) s) := by
  simp only [cycle, decodeCyc, hr, ha, ho, Bool.false_eq_true, if_false]; rfl

/-- What one cycle can be (R47, R60): RESET, WAKE, HOLD, TICK or IDLE, each under its condition. -/
theorem cycle_cases (w : Byte) (s : State) :
    (Cyc.rst w = true ∧ cycle w s = .next (reset (Cyc.rnd w) s)) ∨
    (Cyc.rst w = false ∧ s.asleep = true ∧ Cyc.wake w = true ∧
      cycle w s = .next (latchOvf (Cyc.ovfSet w) (wake (Cyc.rnd w) s))) ∨
    (Cyc.rst w = false ∧ s.asleep = true ∧ Cyc.wake w = false ∧
      cycle w s = .next (latchOvf (Cyc.ovfSet w) s)) ∨
    (Cyc.rst w = false ∧ s.asleep = false ∧ s.ovf = true ∧
      cycle w s = .next (latchOvf (Cyc.ovfSet w) (tick (rawLevel (Cyc.btnN w)) (Cyc.rnd w) s))) ∨
    (Cyc.rst w = false ∧ s.asleep = false ∧ s.ovf = false ∧
      cycle w s = .next (latchOvf (Cyc.ovfSet w) s)) := by
  cases hr : Cyc.rst w
  · cases ha : s.asleep
    · cases ho : s.ovf
      · exact .inr (.inr (.inr (.inr ⟨rfl, rfl, rfl, cycle_idle hr ha ho⟩)))
      · exact .inr (.inr (.inr (.inl ⟨rfl, rfl, rfl, cycle_tick hr ha ho⟩)))
    · cases hw : Cyc.wake w
      · exact .inr (.inr (.inl ⟨rfl, rfl, rfl, cycle_hold hr ha hw⟩))
      · exact .inr (.inl ⟨rfl, rfl, rfl, cycle_wake hr ha hw⟩)
  · exact .inl ⟨rfl, cycle_reset hr⟩

/-- A step is the cycle of the fetched word. -/
theorem step_eq (s : State) : step s = cycle (fetch s).1 (fetch s).2 := rfl

/-- A host run one step longer is that step and the rest. -/
theorem core_run_succ {M : Host.Core} {k : Nat} {s t : M.State} (h : M.step s = .next t) :
    M.run (k + 1) s = M.run k t := by
  simp [Host.Core.run, h]

/-- A run over a word more is a cycle and the rest of the run. -/
theorem runInputs_cons_run {w : Byte} {ws : List Byte} {s t : State}
    (h : cycle w (s.withInputs ws) = .next t) :
    runInputs (w :: ws) s = Sys2Proof.core.run ws.length t :=
  core_run_succ (M := Sys2Proof.core) (s := s.withInputs (w :: ws)) h

@[simp] theorem runInputs_nil (s : State) : runInputs [] s = .next (s.withInputs []) := rfl

/-! ## TICK and WAKE -/

/-- The state a TICK hands to its step operation (R63): acknowledged and debounced. -/
def tickStart (b : Bool) (s : State) : State := debounce b (ackOvf s)

/-- The state a TICK hands to DISPLAY (R63): after the step and the end-of-tick update. -/
def tickStepped (b : Bool) (r : Nibble) (s : State) : State :=
  commitPrev (gameStep (tickStart b s).btn.press r (tickStart b s))

/-- TICK in its two halves (R63). -/
theorem tick_eq (b : Bool) (r : Nibble) (s : State) :
    tick b r s = ledWrite (display (tickStepped b r s)) (tickStepped b r s) := rfl

/-- The parameter record survives the first half of a TICK. -/
@[simp] theorem tickStepped_inst (b : Bool) (r : Nibble) (s : State) : (tickStepped b r s).inst = s.inst :=
  (gameStep_frame _ _ _).2.1

/-- WAKE in its two halves (R118). -/
theorem wake_eq (r : Nibble) (s : State) :
    wake r s =
      ledWrite (Led.set s.P.cursorHome) (commitPrev (gameInit r { s with asleep := false })) := rfl

/-! ## The words lined up for later cycles -/

theorem ledWrite_withInputs (c : BitVec 5) (s : State) (ws : List Byte) :
    ledWrite c (s.withInputs ws) = (ledWrite c s).withInputs ws := by
  simp only [ledWrite, apply_ite (fun u : State => u.withInputs ws)]; rfl

theorem gameStep_withInputs (p : Bool) (r : Nibble) (s : State) (ws : List Byte) :
    gameStep p r (s.withInputs ws) = (gameStep p r s).withInputs ws := by
  have hp : ∀ u : State, activePress r (u.withInputs ws) = (activePress r u).withInputs ws := by
    intro u; simp only [activePress, apply_ite (fun u : State => u.withInputs ws)]; rfl
  have ht : ∀ u : State, activeTimeout (u.withInputs ws) = (activeTimeout u).withInputs ws := by
    intro u; simp only [activeTimeout, apply_ite (fun u : State => u.withInputs ws)]; rfl
  have hm : activeMove (activeCount (s.withInputs ws)) = (activeMove (activeCount s)).withInputs ws := by
    simp only [activeMove, apply_ite (fun u : State => u.withInputs ws)]; rfl
  cases h : s.state <;> simp only [gameStep, withInputs_state, h]
  · simp only [stepInit, apply_ite (fun u : State => u.withInputs ws)]; rfl
  · cases p <;> simp [stepActive, hm, hp, ht]
  · simp only [stepFail, apply_ite (fun u : State => u.withInputs ws)]; rfl
  · simp only [stepWin, apply_ite (fun u : State => u.withInputs ws)]; rfl

theorem tick_withInputs (b : Bool) (r : Nibble) (s : State) (ws : List Byte) :
    tick b r (s.withInputs ws) = (tick b r s).withInputs ws := by
  have h1 : tickStart b (s.withInputs ws) = (tickStart b s).withInputs ws := rfl
  have h2 : tickStepped b r (s.withInputs ws) = (tickStepped b r s).withInputs ws := by
    unfold tickStepped
    rw [h1, withInputs_btn, gameStep_withInputs]; rfl
  have h3 : display ((tickStepped b r s).withInputs ws) = display (tickStepped b r s) := rfl
  rw [tick_eq b r s, tick_eq b r (s.withInputs ws), h2, h3, ledWrite_withInputs]

theorem wake_withInputs (r : Nibble) (s : State) (ws : List Byte) :
    wake r (s.withInputs ws) = (wake r s).withInputs ws := by
  rw [wake_eq r s, wake_eq r (s.withInputs ws)]
  exact ledWrite_withInputs _ (commitPrev (gameInit r { s with asleep := false })) ws

/-- The words lined up for later cycles play no part in a cycle. -/
theorem cycle_withInputs (w : Byte) (ws : List Byte) {s t : State} (h : cycle w s = .next t) :
    cycle w (s.withInputs ws) = .next (t.withInputs ws) := by
  obtain ⟨h1, h2⟩ | ⟨h1, h2, h3, h4⟩ | ⟨h1, h2, h3, h4⟩ | ⟨h1, h2, h3, h4⟩ | ⟨h1, h2, h3, h4⟩ :=
    cycle_cases w s
  · rw [← Host.Outcome.next.inj (h2.symm.trans h), cycle_reset (s := s.withInputs ws) h1]; rfl
  · rw [← Host.Outcome.next.inj (h4.symm.trans h), cycle_wake (s := s.withInputs ws) h1 h2 h3, wake_withInputs]
    rfl
  · rw [← Host.Outcome.next.inj (h4.symm.trans h), cycle_hold (s := s.withInputs ws) h1 h2 h3]; rfl
  · rw [← Host.Outcome.next.inj (h4.symm.trans h), cycle_tick (s := s.withInputs ws) h1 h2 h3, tick_withInputs]
    rfl
  · rw [← Host.Outcome.next.inj (h4.symm.trans h), cycle_idle (s := s.withInputs ws) h1 h2 h3]; rfl

/-- A run over a word more is a cycle and the rest of the run. -/
theorem runInputs_cons {w : Byte} {ws : List Byte} {s t : State} (h : cycle w s = .next t) :
    runInputs (w :: ws) s = runInputs ws t :=
  runInputs_cons_run (cycle_withInputs w ws h)

/-- No operation changes what the host owns. -/
theorem exec_sameHost (i : Instr) (s : State) : ∃ t, exec i s = .next t ∧ SameHost s t := by
  have led : ∀ c (u : State), SameHost s u → SameHost s (ledWrite c u) := by
    intro c u hu; rw [ledWrite_frame]; exact hu
  cases i with
  | reset r => exact ⟨_, rfl, rfl, rfl, rfl⟩
  | wake o r =>
    have := led (Led.set s.P.cursorHome) (commitPrev (gameInit r { s with asleep := false })) ⟨rfl, rfl, rfl⟩
    exact ⟨_, exec_wake o r s, this⟩
  | hold o => exact ⟨_, rfl, rfl, rfl, rfl⟩
  | tick o b r =>
    have h : SameHost s (tickStepped (rawLevel b) r s) :=
      (gameStep_frame (tickStart (rawLevel b) s).btn.press r (tickStart (rawLevel b) s)).2
    exact ⟨_, exec_tick o b r s, led _ _ h⟩
  | idle o => exact ⟨_, rfl, rfl, rfl, rfl⟩
  | stepInit r =>
    refine ⟨_, exec_stepInit r s, ?_⟩
    obtain ⟨-, h⟩ | ⟨-, -, h⟩ | ⟨-, -, -, h⟩ | ⟨-, -, -, h⟩ := stepInit_cases r s <;> simp [h, SameHost]
  | stepActive p r => exact ⟨_, exec_stepActive p r s, (stepActive_frame p r s).2⟩
  | stepFail r =>
    refine ⟨_, exec_stepFail r s, ?_⟩
    obtain ⟨-, h⟩ | ⟨-, h⟩ := stepFail_cases r s <;> simp [h, SameHost]
  | stepWin r =>
    refine ⟨_, exec_stepWin r s, ?_⟩
    obtain ⟨-, h⟩ | ⟨-, h⟩ := stepWin_cases r s <;> simp [h, SameHost]
  | ledSet i => exact ⟨_, rfl, rfl, rfl, rfl⟩
  | ledOff => exact ⟨_, rfl, rfl, rfl, rfl⟩

end Sys2Proof.Machine
end

