-- ==== Sys2Proof/Tests/Slice0.lean ====
section
/-! SUPPORT. The model's own tests. Words and expected values are those of spec/: V-… and P… name the vectors of
95_test_vectors.md. The theorems named witness_… show states and operands that meet a statement's hypotheses. -/

namespace Sys2Proof.Tests

open Sys2Proof Sys2Proof.Machine

/-! ## Well-formedness: one ill-formed record for each check, refused (00_scope.md R6) -/

theorem test_wf_ref : Params.ref.wf = true := by decide
theorem test_wf_small : Params.small.wf = true := by decide
theorem test_wf_refuses_threshold : { Params.ref with th := 0 }.wf = false := by decide
theorem test_wf_refuses_zero_period : { Params.ref with minPeriod := 0 }.wf = false := by decide
theorem test_wf_refuses_period_order : { Params.ref with minPeriod := 101 }.wf = false := by decide
theorem test_wf_refuses_no_target_ticks : { Params.ref with dispTargetTicks := 0 }.wf = false := by decide
theorem test_wf_refuses_half_target_ticks : { Params.ref with dispTargetTicks := 2 }.wf = false := by decide
theorem test_wf_refuses_sweep_slice : { Params.ref with winSweepLsb := 13 }.wf = false := by decide
theorem test_wf_refuses_fail_blink : { Params.ref with failBlinkBit := 16 }.wf = false := by decide
theorem test_wf_refuses_win_blink : { Params.ref with winBlinkBit := 16 }.wf = false := by decide
theorem test_wf_refuses_pin_count : { Params.ref with muxBit := [0, 1, 2, 3] }.wf = false := by decide
theorem test_wf_refuses_shared_pin : { Params.ref with muxBit := [0, 1, 2, 3, 3] }.wf = false := by decide
theorem test_wf_refuses_pin_eight : { Params.ref with muxBit := [0, 1, 2, 3, 8] }.wf = false := by decide
theorem test_wf_refuses_button_on_mux : { Params.ref with btnBit := 4 }.wf = false := by decide
theorem test_wf_refuses_button_eight : { Params.ref with btnBit := 8 }.wf = false := by decide
theorem test_wf_refuses_idle_width : { Params.ref with idleW := 15 }.wf = false := by decide
theorem test_wf_refuses_phase_width : { Params.ref with phaseW := 11 }.wf = false := by decide
theorem test_wf_refuses_stage_width : { Params.ref with stageW := 4 }.wf = false := by decide
theorem test_wf_refuses_pass_width : { Params.ref with passW := 1 }.wf = false := by decide
theorem test_wf_refuses_cnt_width : { Params.ref with cntW := 3 }.wf = false := by decide

/-- A table whose entry 0 names one pin twice. -/
def shortedTable : Vector LedEntry 16 := standInTable.set 0 ⟨1, 1⟩
/-- A table whose entry 0 names a pin that does not exist. -/
def strayTable : Vector LedEntry 16 := standInTable.set 0 ⟨0, 5⟩
/-- A table with a repeated pair: well-formed, not injective. -/
def sharedTable : Vector LedEntry 16 := standInTable.set 0 ⟨1, 0⟩

theorem test_wf_refuses_shorted_table : { Params.ref with ledTable := shortedTable }.wf = false := by decide
theorem test_wf_refuses_stray_table : { Params.ref with ledTable := strayTable }.wf = false := by decide
theorem test_wf_takes_shared_table : { Params.ref with ledTable := sharedTable }.wf = true := by decide
theorem test_inj_refuses_shared_table : { Params.ref with ledTable := sharedTable }.injTable = false := by decide
theorem test_inj_ref : Params.ref.injTable = true := by decide

/-! ## Decoding: one word per row, written out from R46 to R49 -/

theorem test_decode_reset : decodeCyc false true 0b10011010#8 = .reset 10 := by decide
theorem test_decode_wake : decodeCyc true false 0b01100111#8 = .wake true 7 := by decide
theorem test_decode_hold : decodeCyc true true 0b00110000#8 = .hold true := by decide
theorem test_decode_tick : decodeCyc false true 0b00101000#8 = .tick true false 8 := by decide
theorem test_decode_idle : decodeCyc false false 0b01010000#8 = .idle false := by decide
theorem test_decode_stepInit : decodeSt 0b00#2 true 3 = .stepInit 3 := by decide
theorem test_decode_stepActive : decodeSt 0b01#2 true 3 = .stepActive true 3 := by decide
theorem test_decode_stepFail : decodeSt 0b10#2 true 3 = .stepFail 3 := by decide
theorem test_decode_stepWin : decodeSt 0b11#2 true 3 = .stepWin 3 := by decide
theorem test_decode_ledSet : decodeLed 0b11001#5 = .ledSet 9 := by decide
theorem test_decode_ledOff : decodeLed 0b01111#5 = .ledOff := by decide
theorem test_decode_two_bytes_refused :
    decodeBytes false false [0x10, 0x30] = .error .notOneByte := by rfl

/-! ## The host's view of a table word (log 8) -/

theorem test_table_reset : decodeTableWord 8 0x8A = some (.reset 10) := by decide
theorem test_table_wake : decodeTableWord 8 0x47 = some (.wake false 7) := by decide
theorem test_table_tick : decodeTableWord 8 0x28 = some (.tick true false 8) := by decide
theorem test_table_st : decodeTableWord 2 2 = some (.stepFail 0) := by decide
theorem test_table_led : decodeTableWord 5 25 = some (.ledSet 9) := by decide
theorem test_table_refuses_wide : decodeTableWord 5 32 = none := by decide
theorem test_table_refuses_format : decodeTableWord 7 0 = none := by decide

/-- Placing an 8-bit word makes the next step run what the table word decodes to. -/
theorem test_place_cyc (w : Byte) :
    let s := State.reset.withFetchWord 8 w.toNat
    decodeTableWord 8 w.toNat = some (decodeCyc s.asleep s.ovf w) ∧ s.inputs = [w] := by
  revert w; decide +kernel

/-- Placing a state code makes the next step a TICK of that state with no press event. -/
theorem test_place_st (c : BitVec 2) :
    let s := State.reset.withFetchWord 2 c.toNat
    decodeTableWord 2 c.toNat = some (decodeSt s.state.code (s.btn.debounce s.P.th false).press 0) ∧
      decodeCyc s.asleep s.ovf 0x10 = .tick false true 0 ∧ s.inputs = [0x10] := by
  revert c; decide +kernel

/-- Placing an LED command makes the next step end with that command. -/
theorem test_place_led (c : BitVec 5) :
    let s := State.reset.withFetchWord 5 c.toNat
    decodeTableWord 5 c.toNat = some (decodeLed (display (tickStepped false 0 s))) ∧ s.inputs = [0x10] := by
  revert c; decide +kernel

/-! ## A cycle and its flags -/

/-- A state of the given instance: running, an overflow pending, the port as after RESET. -/
def base (I : Instance) : State := { State.resetOf I 0 with ovf := true }

/-- The cycle operation, `ovf_clr`, and the flags after the cycle, from a state with the given flags. -/
def flagsOf (asleep ovf : Bool) (w : Byte) : Instr × Bool × Option (Bool × Bool) :=
  let s : State := { base Instance.ref with state := .active, asleep := asleep, ovf := ovf }
  (decodeCyc asleep ovf w, ovfClr w s, (nextState (cycle w s)).map fun t => (t.asleep, t.ovf))

/-- V-CY2. -/
theorem test_idle_latches : flagsOf false false 0x30 = (.idle true, false, some (false, true)) := by decide
/-- V-CY4. -/
theorem test_tick_set_dominant : flagsOf false true 0x30 = (.tick true true 0, true, some (false, true)) := by
  decide
/-- V-CY5. -/
theorem test_tick_ignores_wake : flagsOf false true 0x50 = (.tick false true 0, true, some (false, false)) := by
  decide
/-- V-CY12. -/
theorem test_hold_takes_no_tick : flagsOf true true 0x10 = (.hold false, false, some (true, true)) := by decide
/-- V-CY9. -/
theorem test_wake_latches : flagsOf true false 0x67 = (.wake true 7, false, some (false, true)) := by decide
/-- V-CY10. -/
theorem test_reset_discards_overflow : flagsOf true true 0xB0 = (.reset 0, false, some (false, false)) := by decide

/-! ## One tick each (REF), compared on `st sg cur tgt dir ph idle`, the button, `asl` and the port -/

/-- The registers the vectors compare. -/
structure Seen where
  st : GameState
  sg : Nat
  cur : Nibble
  tgt : Nibble
  dir : Bool
  ph : Nat
  idle : Nat
  pass : Nat
  btn : ButtonState
  asl : Bool
  ddr : Byte
  port : Byte
  deriving DecidableEq

/-- What the vectors see of an outcome. -/
def seen (o : Host.Outcome State Fault Refusal) : Option Seen :=
  (nextState o).map fun t =>
    ⟨t.state, t.stage, t.cursor, t.target, t.dir, t.phase, t.idle, t.pass, t.btn, t.asleep, t.ddr, t.port⟩

/-- A pre-state of the vectors. -/
def pre (st : GameState) (stage : Nat) (cursor target : Nibble) (dir : Bool) (phase idle pass : Nat)
    (btn : ButtonState) : State :=
  { base Instance.ref with
    state := st, stage := stage, cursor := cursor, target := target, dir := dir, phase := phase, idle := idle
    pass := pass, btn := btn }

/-- The button one sample short of the threshold, and pressed after it. -/
def almost : ButtonState := ⟨false, 9, false, false⟩
def pressed : ButtonState := ⟨true, 10, true, true⟩

/-- V-A2. -/
theorem test_active_win : seen (exec (.tick false false 2) (pre .active 15 5 5 true 3 7 0 almost)) =
    some ⟨.win, 16, 5, 2, false, 0, 0, 0, pressed, false, 0x03, 0x21⟩ := by decide
/-- V-A7. -/
theorem test_active_move_then_hit : seen (exec (.tick false false 1) (pre .active 0 4 5 false 100 7 0 almost)) =
    some ⟨.active, 1, 5, 1, true, 0, 0, 0, pressed, false, 0x03, 0x22⟩ := by decide
/-- V-I3. -/
theorem test_init_leaves : seen (exec (.tick false true 7) (pre .init 0 8 9 false 30 0 2 .cleared)) =
    some ⟨.active, 0, 9, 7, false, 0, 0, 0, .cleared, false, 0x11, 0x30⟩ := by decide
/-- V-I6. -/
theorem test_init_wraps : seen (exec (.tick false true 7) (pre .init 0 15 3 false 30 0 0 .cleared)) =
    some ⟨.init, 0, 0, 3, false, 0, 0, 0, .cleared, false, 0x03, 0x21⟩ := by decide
/-- V-F3. -/
theorem test_fail_dark : seen (exec (.tick false true 5) (pre .fail 0 10 3 false 1999 55 0 .cleared)) =
    some ⟨.fail, 0, 10, 3, false, 2000, 55, 0, .cleared, false, 0x00, 0x20⟩ := by decide
/-- V-F4. -/
theorem test_fail_ends : seen (exec (.tick false false 5) (pre .fail 4 10 3 true 2000 55 0 pressed)) =
    some ⟨.init, 0, 8, 5, false, 0, 0, 0, .cleared, false, 0x06, 0x22⟩ := by decide
/-- V-W4. -/
theorem test_win_sweep : seen (exec (.tick false true 0) (pre .win 16 5 2 false 3999 0 0 .cleared)) =
    some ⟨.win, 16, 5, 2, false, 4000, 0, 0, .cleared, false, 0x0C, 0x24⟩ := by decide
/-- V-W5. -/
theorem test_win_ends : seen (exec (.tick false true 12) (pre .win 16 5 2 false 4000 0 0 .cleared)) =
    some ⟨.init, 0, 8, 12, false, 0, 0, 0, .cleared, false, 0x06, 0x22⟩ := by decide
/-- V-A11. -/
theorem test_active_sleeps : seen (exec (.tick false true 9) (pre .active 0 5 6 false 0 40000 0 .cleared)) =
    some ⟨.active, 0, 5, 6, false, 1, 40001, 0, .cleared, true, 0x00, 0x20⟩ := by decide
/-- V-A10. -/
theorem test_active_miss_averts_sleep :
    seen (exec (.tick false false 9) (pre .active 0 5 6 false 0 40000 0 almost)) =
      some ⟨.fail, 0, 5, 6, false, 0, 40001, 0, pressed, false, 0x09, 0x28⟩ := by decide
/-- V-PW3. -/
theorem test_wake : seen (exec (.wake false 7) { pre .active 0 5 6 false 1 40001 0 .cleared with asleep := true }) =
    some ⟨.init, 0, 8, 7, false, 0, 0, 0, .cleared, false, 0x06, 0x22⟩ := by decide
/-- V-RS2. -/
theorem test_reset_writes_foreign_bits :
    seen (exec (.reset 3) { base Instance.ref with asleep := true, ddr := 0xC0, port := 0xE0 }) =
      some ⟨.init, 0, 8, 3, false, 0, 0, 0, .cleared, false, 0x00, 0x20⟩ := by decide
/-- V-L3. -/
theorem test_led_set : (nextState (exec (.ledSet 9) { base Instance.ref with ddr := 0xDF, port := 0xFF })).map
    (fun t => (t.ddr, t.port, lit t.P t.ddr t.port)) = some (0xC6, 0xE4, [9]) := by decide
/-- V-L5. -/
theorem test_led_set_clears_old :
    (nextState (exec (.ledSet 0) { base Instance.ref with ddr := 0x11, port := 0x30 })).map
      (fun t => (t.ddr, t.port, lit t.P t.ddr t.port)) = some (0x03, 0x21, [0]) := by decide
/-- V-L4. -/
theorem test_led_off : (nextState (exec .ledOff { base Instance.ref with ddr := 0xFF, port := 0xFF })).map
    (fun t => (t.ddr, t.port, lit t.P t.ddr t.port)) = some (0xE0, 0xE0, []) := by decide
/-- V-DB3, its last three ticks: nine pressed, one released, two pressed reach the threshold. -/
theorem test_debounce_leaky : ((buttonRun 10 almost [false, true]).debounce 10 true).press = true := by decide
/-- The example of R31's row: `TBL_W` of five pins is 3. -/
theorem test_table_entry_width : tblW Params.ref = 3 := by decide
/-- R53: a sleeping block with an overflow pending never drains. -/
theorem test_drain : (ScriptItem.drain.expand false true = some [{}]) ∧ ScriptItem.drain.expand false false = some [] ∧
    ScriptItem.drain.expand true true = none := by decide
/-- R52: text that is no line. -/
theorem test_script_refuses : readLine "ovf r=16".toList = none ∧ readLine "tick r=1".toList = none := by decide

/-! ## Witnesses: hypotheses that something meets -/

theorem witness_ResetSetsEveryRegister : (base Instance.ref).inst = Instance.ref := rfl

theorem witness_RunFromResetForgetsThePast :
    HResetFirst [0x9A, 0x10] ∧ (base Instance.ref).inst = (pre .win 16 5 2 false 9 9 9 pressed).inst ∧
      (base Instance.ref).freeReads = (pre .win 16 5 2 false 9 9 9 pressed).freeReads :=
  ⟨⟨_, _, rfl, by decide⟩, rfl, rfl⟩

/-- A sleeping block of the SMALL instance, an overflow pending, `idle` at its bound. -/
def sleeping : State :=
  { base Instance.small with
    state := .active, stage := 1, cursor := 5, target := 6, phase := 1, idle := 13, asleep := true }

/-- A running block of the SMALL instance in Active, at the last idle count, LED 9 lit. -/
def running : State :=
  { base Instance.small with
    state := .active, stage := 1, cursor := 9, target := 8, phase := 1, idle := 12
    btn := ⟨true, 2, true, true⟩, ddr := 0x06, port := 0x24 }

/-- A running block of the SMALL instance in Init. -/
def starting : State := base Instance.small

theorem witness_HoldRunsKeepEverythingButOvf :
    sleeping.asleep = true ∧ ∀ w ∈ ([0x30, 0x00] : List Byte), Cyc.rst w = false ∧ Cyc.wake w = false := by decide

/-- Both clauses of the wake and sleep statement. -/
theorem witness_NoTickInWakeNorAfterSleep :
    (∃ t, cycle 0x47 sleeping = .next t) ∧ Cyc.rst 0x47 = false ∧ sleeping.asleep = true ∧ Cyc.wake 0x47 = true ∧
    (∃ t, cycle 0x10 { running with btn := .cleared } = .next t ∧ t.asleep = true) ∧ running.asleep = false :=
  ⟨⟨_, rfl⟩, by decide, rfl, by decide, ⟨_, rfl, by decide⟩, rfl⟩

theorem witness_CycleSelectionFollowsTheTable :
    (0x80#8 &&& 0x80 = 0x80) ∧ (0x40#8 &&& 0xC0 = 0x40) ∧ (0x3F#8 &&& 0xC0 = 0x00) ∧ (0x7F#8 &&& 0x80 = 0x00) := by
  decide

theorem witness_DecodeInvertsEncode :
    (Instr.hold true).selectedBy ⟨true, true, false, 0⟩ = true ∧
    (Instr.tick true false 15).selectedBy ⟨false, true, false, 0⟩ = true ∧
    (Instr.stepActive true 15).selectedBy ⟨false, true, true, 15⟩ = true ∧
    (Instr.ledSet 15).selectedBy ⟨false, false, false, 0⟩ = true := by decide

theorem witness_IgnoredFieldsDoNotMatter :
    let s : State := { running with ovf := false }
    0x1F#8 &&& careMask (decodeCyc s.asleep s.ovf 0x1F) = 0x40#8 &&& careMask (decodeCyc s.asleep s.ovf 0x1F) := by
  decide

theorem witness_StepRunsTheDecodedWord :
    (running.withInputs [0x10]).inputs = 0x10 :: [] ∧ running.inputs = [] := ⟨rfl, rfl⟩

theorem witness_StepKeepsTheInstance : ∃ t, step running = .next t := by
  obtain ⟨t, h, -⟩ := exec_sameHost (decodeCyc (fetch running).2.asleep (fetch running).2.ovf (fetch running).1)
    (fetch running).2
  exact ⟨t, h⟩

theorem witness_OnlyResetTouchesOtherPins : Cyc.rst 0x7F = false ∧ ∃ t, cycle 0x7F running = .next t :=
  ⟨by decide, _, rfl⟩

theorem witness_PinsShowTheDisplay :
    (∃ o b r, Instr.tick true false 3 = .tick o b r) ∧ ∃ o r, Instr.wake true 3 = .wake o r :=
  ⟨⟨_, _, _, rfl⟩, _, _, rfl⟩

/-- Both clauses: a tick that ends Fail, and one that counts at each edge of the count. -/
theorem witness_TickUpdatesTheButton :
    ((nextState (exec (.tick false false 5) (pre .fail 4 10 3 true 2000 55 0 pressed))).map (·.state) = some .init ∧
      (pre .fail 4 10 3 true 2000 55 0 pressed).state = .fail) ∧
    (almost.cnt < Params.ref.th ∧ Params.ref.th ≤ pressed.cnt) ∧
    ((nextState (exec (.tick false false 5) (pre .active 0 5 6 false 0 0 0 almost))).map (·.btn.cnt) =
      some Params.ref.th) := by decide

theorem witness_DebounceKeepsTheBound : pressed.cnt ≤ Params.ref.th ∧ ButtonState.cleared.cnt ≤ 1 := by decide

theorem witness_SteadyLevelSettlesTheFilter : 1 ≤ 2 ∧ almost.cnt ≤ 10 ∧ 2 ≤ 10 := by decide

/-- Both flips, at TH = 2 from the rails. -/
theorem witness_FilterFlipsNeedEnoughTicks :
    (ButtonState.cleared.filt = false ∧ (buttonRun 2 .cleared [true, true]).filt = true) ∧
    ((⟨true, 2, true, true⟩ : ButtonState).filt = true ∧
      (buttonRun 2 ⟨true, 2, true, true⟩ [false, false]).filt = false) := by decide

theorem witness_HeldPressFiresInTickTH :
    ButtonState.cleared.cnt = 0 ∧ ButtonState.cleared.filt = false ∧ ButtonState.cleared.prev = false := by decide

/-- The tick that fires, and the longest run of ticks still too short for a second event (TH = 10). -/
theorem witness_PressEventsAreSpaced :
    almost.cnt ≤ 10 ∧ almost.prev = almost.filt ∧ (almost.debounce 10 true).press = true ∧
      (List.replicate 18 false).length + 1 < 2 * 10 := by decide

/-- The example clauses of LedSetDrivesItsTwoPins, LedOffReleasesAllPins and ButtonPinNeverDisturbed. -/
theorem witness_LedExamples :
    let s : State := { base Instance.ref with ddr := 0xDF, port := 0xFF }
    let t : State := { base Instance.ref with ddr := 0x06, port := 0x24 }
    (s.inst = Instance.ref ∧ s.ddr = 0xDF ∧ s.port = 0xFF) ∧ (t.inst = Instance.ref ∧ t.ddr = 0x06 ∧ t.port = 0x24) ∧
      (base Instance.ref).ddr = 0x00 ∧ (base Instance.ref).port = 0x20 := by decide

theorem witness_ExactlyTheAddressedLedIsLit : running.P.injTable = true := by decide

theorem witness_PeriodIsTheClampedMaximum : 12 ≤ 12 := by decide

/-- The four clauses, at the boundary of each. -/
theorem witness_StepInitResult :
    (pre .init 0 8 9 false 29 0 0 .cleared).phase + 1 ≤ Params.ref.spinPeriod ∧
    Params.ref.spinPeriod < (pre .init 0 8 9 false 30 0 0 .cleared).phase + 1 ∧
    nextPos 8 false ≠ 10 ∧ nextPos 8 false = 9 ∧ 1 + 1 ≤ Params.ref.passThreshold ∧
    Params.ref.passThreshold < 2 + 1 := by decide

theorem witness_StepActiveWithoutPress :
    (pre .active 0 5 6 false 0 39999 0 .cleared).state = .active ∧
    (pre .active 0 5 6 false 0 39999 0 .cleared).idle + 1 ≤ Params.ref.idleTimeout ∧
    Params.ref.idleTimeout < (pre .active 0 5 6 false 0 40000 0 .cleared).idle + 1 := by decide

/-- The three clauses: a hit that stays, a hit that wins, a miss; the first after a move. -/
theorem witness_StepActiveWithPress :
    (pre .active 14 4 5 false 12 0 0 almost).state = .active ∧ nextPos 4 false = 5 ∧
    period Params.ref 14 < 12 + 1 ∧ 14 + 1 ≤ Params.ref.maxStage ∧ Params.ref.maxStage < 15 + 1 ∧
    (5 : Nibble) ≠ 6 := by decide

theorem witness_StepFailAndWinResult :
    1999 + 1 ≤ Params.ref.failTicks ∧ Params.ref.failTicks < 2000 + 1 ∧ 3999 + 1 ≤ Params.ref.winTicks ∧
      Params.ref.winTicks < 4000 + 1 := by decide

theorem witness_TransitionTableIsComplete : ∃ t, cycle 0x20 running = .next t := ⟨_, rfl⟩

theorem witness_StageGrowsByHitsOnly :
    ∃ t, cycle 0x20 (pre .active 15 5 5 true 3 7 0 almost) = .next t ∧ t.state ≠ .init ∧
      (pre .active 15 5 5 true 3 7 0 almost).state ≠ .init := ⟨_, rfl, by decide, by decide⟩

theorem witness_DrawOnlyChoosesTheTarget :
    let i : Nibble → Instr := .stepActive true
    i = .stepInit ∨ i = .stepActive true ∨ i = .stepFail ∨ i = .stepWin ∨ i = .reset ∨ i = .wake false :=
  .inr (.inl rfl)

/-- A bit beyond the byte is 0 in both. -/
theorem other_pins_of_byte {P : Params} {x : Byte} {v : Bool} (hb : P.btnBit < 8)
    (h : ∀ n, n < 8 → n ∉ P.muxBit → x.getLsbD n = (decide (n = P.btnBit) && v)) :
    ∀ n, n ∉ P.muxBit → x.getLsbD n = (decide (n = P.btnBit) && v) := by
  intro n hn
  by_cases h8 : n < 8
  · exact h n h8 hn
  · rw [BitVec.getLsbD_of_ge _ _ (by omega)]
    simp; omega

/-- A sleeping state that meets the invariants, at the idle bound (CountersFitTheirRegisters, AtMostOneLedIsDriven). -/
theorem witness_Inv_asleep : Inv sleeping ∧ sleeping.asleep = true where
  left := {
    cnt_le := by decide
    stage_le := by decide
    stage_win := by decide
    idle_le := by decide
    idle_eq := by decide
    pass_le := by decide
    other_pins := fun n hn =>
      ⟨other_pins_of_byte (x := sleeping.ddr) (by decide) (by decide) n hn,
        other_pins_of_byte (x := sleeping.port) (by decide) (by decide) n hn⟩
    mux_pins := ⟨none, by unfold PinsShow; decide⟩
    asleep_off := fun _ => ⟨rfl, by unfold PinsShow; decide⟩
    prev_eq := by decide
    phase_le := by show _ ≤ _; decide }
  right := rfl

/-- A running state that meets the invariants, with a lit LED and a step to take (StepKeepsInv); `INJ_TABLE` holds of its
table (AtMostOneLedIsDriven), and it is Active and awake (the last clause of CountersFitTheirRegisters). -/
theorem witness_Inv_running :
    Inv running ∧ running.state = .active ∧ running.asleep = false ∧ running.P.injTable = true ∧
      ∃ t, step running = .next t := by
  refine ⟨?_, rfl, rfl, by decide, witness_StepKeepsTheInstance⟩
  exact {
    cnt_le := by decide
    stage_le := by decide
    stage_win := by decide
    idle_le := by decide
    idle_eq := by decide
    pass_le := by decide
    other_pins := fun n hn =>
      ⟨other_pins_of_byte (x := running.ddr) (by decide) (by decide) n hn,
        other_pins_of_byte (x := running.port) (by decide) (by decide) n hn⟩
    mux_pins := ⟨some 9, by unfold PinsShow; decide⟩
    asleep_off := fun h => absurd h (by decide)
    prev_eq := by decide
    phase_le := by show _ ≤ _; decide }

/-- An Init state that meets the invariants. -/
theorem witness_Inv_starting : Inv starting where
  cnt_le := by decide
  stage_le := by decide
  stage_win := by decide
  idle_le := by decide
  idle_eq := by decide
  pass_le := by decide
  other_pins := fun n hn =>
    ⟨other_pins_of_byte (x := starting.ddr) (by decide) (by decide) n hn,
      other_pins_of_byte (x := starting.port) (by decide) (by decide) n hn⟩
  mux_pins := ⟨none, by unfold PinsShow; decide⟩
  asleep_off := fun h => absurd h (by decide)
  prev_eq := by decide
  phase_le := by show _ ≤ _; decide

/-- A released button, and one held since before with a bounce in it. -/
theorem witness_SleepInTickTimeoutPlusOne :
    let s : State := { running with idle := 0, btn := .cleared }
    let t : State := { running with idle := 0 }
    let ws : List Byte := List.replicate 13 0x30
    let vs : List Byte := List.replicate 6 0x20 ++ 0x30 :: List.replicate 6 0x20
    (s.state = .active ∧ s.asleep = false ∧ s.idle = 0 ∧ s.ovf = true) ∧
    (t.state = .active ∧ t.asleep = false ∧ t.idle = 0 ∧ t.ovf = true ∧ t.btn.filt = true ∧ t.btn.prev = true) ∧
    (ws.length = s.P.idleTimeout + 1 ∧ vs.length = t.P.idleTimeout + 1) ∧
    (∀ w ∈ ws ++ vs, Cyc.rst w = false ∧ Cyc.ovfSet w = true) ∧
    noPress s.P.th s.btn (ws.map fun w => !Cyc.btnN w) = true ∧
    noPress t.P.th t.btn (vs.map fun w => !Cyc.btnN w) = true ∧
    Cyc.rst 0x47 = false ∧ Cyc.wake 0x47 = true := by decide

/-- Both clauses, at the most ticks of the other level that each allows (TH = 10). -/
theorem witness_QuietButtonHasNoPress :
    (ButtonState.cleared.cnt ≤ 10 ∧ ButtonState.cleared.prev = ButtonState.cleared.filt ∧
      ButtonState.cleared.filt = false ∧ (List.replicate 9 true).count true < 10 - ButtonState.cleared.cnt) ∧
    (pressed.cnt ≤ 10 ∧ pressed.prev = pressed.filt ∧ pressed.filt = true ∧
      (List.replicate 9 false).count false < pressed.cnt) := by decide

/-- Both clauses, the second at its shortest. -/
theorem witness_FailAndWinEndOnTime :
    let ws : List Byte := List.replicate 4 0x30
    let s : State := { starting with state := .fail, phase := 0 }
    let t : State := { starting with state := .win, phase := 5 }
    (∀ w ∈ ws, Cyc.rst w = false ∧ Cyc.ovfSet w = true) ∧
    (s.asleep = false ∧ s.ovf = true ∧ s.state = .fail ∧ s.phase + ws.length = s.P.failTicks + 1 ∧ 1 ≤ ws.length) ∧
    (t.asleep = false ∧ t.ovf = true ∧ t.state = .win ∧ t.phase + (ws.take 1).length = t.P.winTicks + 1) := by
  decide

/-- With `witness_Inv_starting`, all hypotheses of the statement. -/
theorem witness_InitEndsWithinItsBound :
    let ws : List Byte := List.replicate 16 0x20
    (starting.state = .init ∧ starting.asleep = false ∧ starting.ovf = true) ∧
    (∀ w ∈ ws, Cyc.rst w = false ∧ Cyc.ovfSet w = true) ∧
    ws.length = (starting.P.passThreshold + 1) * 16 * (starting.P.spinPeriod + 1) := by decide

theorem witness_UntouchedBlockFallsAsleepForGood :
    Inv starting ∧ starting.btn.filt = false ∧ HTicksForever (fun _ => 0x30) ∧
      ∀ n : Nat, Cyc.rst ((fun _ => 0x30 : Nat → Byte) n) = false ∧ Cyc.wake ((fun _ => 0x30 : Nat → Byte) n) = false ∧
        Cyc.btnN ((fun _ => 0x30 : Nat → Byte) n) = true :=
  ⟨witness_Inv_starting, rfl, fun n => ⟨n, Nat.le_refl n, show Cyc.ovfSet 0x30 = true by decide⟩, fun _ =>
    show Cyc.rst 0x30 = false ∧ Cyc.wake 0x30 = false ∧ Cyc.btnN 0x30 = true by decide⟩

theorem witness_ScriptLinesAssemble :
    running.asleep = false ∧ running.ovf = true ∧ ({ running with ovf := false } : State).ovf = false ∧
    ∀ k, k < 1 → ∃ t, runInputs (List.replicate k 0x30) running = .next t ∧ t.asleep = false := by
  refine ⟨rfl, rfl, rfl, fun k hk => ?_⟩
  obtain rfl : k = 0 := by omega
  exact ⟨_, rfl, rfl⟩

/-! ## The host's duty H_WAKE_ONCE -/

/-- P3, bytes of its 21 cycles. -/
def p3Words : List Byte :=
  [0x99, 0x70, 0x32, 0x30, 0x30, 0x30, 0x30, 0x30, 0x30, 0x30, 0x30, 0x30, 0x30, 0x30, 0x30, 0x30,
   0x30, 0x20, 0x47, 0x00, 0x00]

/-- `asleep_o` in the cycles of P3: asleep after cycle 15, awake after cycle 18. -/
def p3Asleep (n : Nat) : Bool := decide (16 ≤ n ∧ n ≤ 18)

/-- The pin of a run that shows each cycle's sample and nothing between. -/
def plainPin (ws : Nat → Byte) : PinTrace := ⟨true, fun n => [Cyc.btnN (ws n)]⟩

/-- The host of P3 keeps the duty: the press edge comes in cycle 17, its one cycle of `wake` in cycle 18. -/
theorem test_wakeOnce_p3 :
    HWakeOnce .press (plainPin (p3Words.getD · 0x00)) p3Asleep (p3Words.getD · 0x00) := by
  have range : ∀ n, p3Asleep n = true → n = 16 ∨ n = 17 ∨ n = 18 := by
    intro n h; simp [p3Asleep] at h; omega
  constructor
  · intro n ha
    obtain rfl | rfl | rfl := range n ha <;> decide
  · intro n ha he
    refine ⟨18, ?_, fun k h1 h2 => ?_, .inl (by decide)⟩ <;>
      obtain h | h | h := range n ha <;> simp [p3Asleep] at * <;> omega

/-- A host that holds `wake` for a press edge in the cycle of the sleeping TICK keeps it too (R119 (2)); the sleep is
cycle 16 alone. -/
theorem test_wakeOnce_held :
    let ws : Nat → Byte := fun n => if n < 15 then 0x30 else 0x60
    HWakeOnce .press (plainPin ws) (fun n => decide (n = 16)) ws := by
  constructor
  · intro n ha
    obtain rfl : n = 16 := by simpa using ha
    decide
  · intro n ha he
    obtain rfl : n = 16 := by simpa using ha
    exact absurd he (by decide)

/-- A cycle of `wake` without an edge does not keep it. -/
theorem test_wakeOnce_needs_an_edge :
    ¬ HWakeOnce .press (plainPin fun _ => 0x50) (fun _ => true) (fun _ => 0x50) := fun h =>
  absurd (h.never_without 0 rfl (by decide)) (by decide)

/-- A run that wakes in its first cycle for a press edge of that cycle, then polls for ever. -/
theorem witness_WakeOnceEndsEachSleep :
    let s : State := { sleeping with ovf := false }
    let t : State := latchOvf false (wake 7 s)
    let ws : Nat → Byte := fun n => if n = 0 then 0x47 else 0x10
    let st : Nat → State := fun n => if n = 0 then s else t
    (∀ n, cycle (ws n) (st n) = .next (st (n + 1))) ∧
      HWakeOnce .press (plainPin ws) (fun n => (st n).asleep) ws ∧ (plainPin ws).Sampled ws ∧
      (st 0).asleep = true ∧ (st 1).asleep = false ∧ Cyc.rst (ws 0) = false ∧ 1 ≤ (plainPin ws).edges .press ws 0 := by
  intro s t ws st
  have asleep : ∀ n, (st n).asleep = true → n = 0 := by
    intro n h
    by_contra hn
    simp only [st, hn, if_false] at h
    exact absurd h (by decide)
  refine ⟨fun n => ?_, ⟨fun n ha hw => ?_, fun n ha he => ?_⟩, fun n => rfl, rfl, by decide, by decide, by decide⟩
  · cases n with
    | zero => exact cycle_wake (w := 0x47) (s := s) (by decide) rfl (by decide)
    | succ n =>
      show cycle 0x10 t = .next t
      rw [cycle_idle (by decide) (by decide) (by decide), show Cyc.ovfSet 0x10 = false by decide, latchOvf_false]
  · obtain rfl := asleep n ha
    decide
  · obtain rfl := asleep n ha
    exact ⟨0, Nat.le_refl 0, fun k _ h => by rw [Nat.le_zero.1 h]; rfl, .inl (by decide)⟩

end Sys2Proof.Tests
end

section
/-! PROOFS. The scope of a step (00_scope.md R4 to R6): which word it reads, what it runs, what it keeps of what the host
owns. -/

namespace Sys2Proof.Machine

open Sys2Proof

/-! ## The fetch, one equation per source of the word -/

theorem fetch_of_inputs_cons {s : State} {w : Byte} {ws : List Byte} (h : s.inputs = w :: ws) :
    fetch s = (w, { s with inputs := ws }) := by simp only [fetch, h]

theorem fetch_of_inputs_nil {s : State} (h : s.inputs = []) :
    fetch s = (Config.freeInput s.freeReads, { s with freeReads := s.freeReads + 1 }) := by simp only [fetch, h]

/-! ## What a cycle and a step keep of what the host owns -/

/-- A cycle keeps the constants, the lined-up words and the free-input count: only the fetch takes a word. -/
theorem cycle_sameHost {w : Byte} {s t : State} (h : cycle w s = .next t) : SameHost s t := by
  obtain ⟨u, hu, hs⟩ := exec_sameHost (decodeCyc s.asleep s.ovf w) s
  obtain rfl : u = t := Host.Outcome.next.inj (hu.symm.trans h)
  exact hs

/-- Whatever a step leaves, its host's fields are those the fetch left. -/
theorem step_sameHost_fetch {s t : State} (h : step s = .next t) : SameHost (fetch s).2 t :=
  cycle_sameHost (step_eq s ▸ h)

/-- Settles O17: a step's cycle keeps the host's fields, so the step changes of them only what its fetch does. -/
theorem stepKeepsTheInstance : Obligations.StepKeepsTheInstance := by
  intro s t h
  obtain ⟨hinst, hinputs, hreads⟩ := step_sameHost_fetch h
  cases hw : s.inputs with
  | nil =>
    rw [fetch_of_inputs_nil hw] at hinst hinputs hreads
    exact ⟨hinst, hinputs.trans hw, by simpa using hreads⟩
  | cons w ws =>
    rw [fetch_of_inputs_cons hw] at hinst hinputs hreads
    exact ⟨hinst, hinputs, by simpa using hreads⟩

/-- Settles O12: a step is the cycle of the fetched word, and the fetch leaves alone the two flags the decoder reads. -/
theorem stepRunsTheDecodedWord : Obligations.StepRunsTheDecodedWord := by
  refine ⟨fun s w ws h => ?_, fun s h => ?_⟩
  · rw [step_eq, fetch_of_inputs_cons h, cycle]
  · rw [step_eq, fetch_of_inputs_nil h, cycle]

end Sys2Proof.Machine
end

section
/-! PROOFS. The registers after RESET (10_state.md R28) and the invariants of R29 and 70_reset_and_hazards.md R150: RESET
meets them and every step keeps them. The game's registers are followed by `GameInv`, the pins by the laws of the LED
write. -/

namespace Sys2Proof.Machine

open Sys2Proof

/-! ## The bits a RESET leaves in the port (R28, R140) -/

theorem reset_ddr_bit (r : Nibble) (s : State) (n : Nat) :
    (reset r s).ddr.getLsbD n = (decide (n = s.P.btnBit) && s.P.btnDdrReset) := by
  obtain ⟨-, -, -, hbtn, -⟩ := s.inst.pins
  simp [bitAt_getLsbD, hbtn]

theorem reset_port_bit (r : Nibble) (s : State) (n : Nat) :
    (reset r s).port.getLsbD n = (decide (n = s.P.btnBit) && s.P.btnPortReset) := by
  obtain ⟨-, -, -, hbtn, -⟩ := s.inst.pins
  simp [bitAt_getLsbD, hbtn]

/-- No multiplexed pin is the button's, so a RESET leaves each of them a high-impedance input. -/
theorem reset_pins (r : Nibble) (s : State) : PinsShow none (reset r s) := by
  intro k hk
  have hne : muxBitOf s.P k ≠ s.P.btnBit := by
    obtain ⟨-, -, -, -, hbtn⟩ := s.inst.pins
    intro h
    exact hbtn (h ▸ muxBitOf_mem s.inst hk)
  have hddr := reset_ddr_bit r s (muxBitOf s.P k)
  have hport := reset_port_bit r s (muxBitOf s.P k)
  rw [decide_eq_false hne, Bool.false_and] at hddr hport
  show pinMode (reset r s).ddr (reset r s).port (muxBitOf s.P k) = .highZ
  rw [pinMode, hddr, hport]

/-- Settles O1: every register is one the laws of `reset` name; the REF column is the table at `Instance.ref`. -/
theorem resetSetsEveryRegister : Obligations.ResetSetsEveryRegister := by
  intro s r
  refine ⟨reset r s, exec_reset r s, rfl, rfl, rfl, rfl, rfl, rfl, rfl, rfl, rfl, rfl, rfl, rfl,
    reset_ddr_bit r s, reset_port_bit r s, rfl, rfl, ⟨rfl, rfl, rfl⟩, fun href => ?_⟩
  rw [reset_state, reset_cursor, reset_dir, reset_ddr, reset_port, href]
  decide

/-! ## What the invariants do not speak of -/

/-- The overflow flag and the host's words play no part in the invariants. -/
theorem Inv.with_ovf_host {s : State} (h : Inv s) (o : Bool) (ws : List Byte) (n : Nat) :
    Inv { s with ovf := o, inputs := ws, freeReads := n } :=
  ⟨h.cnt_le, h.stage_le, h.stage_win, h.idle_le, h.idle_eq, h.pass_le, h.other_pins, h.mux_pins, h.asleep_off,
    h.prev_eq, h.phase_le⟩

theorem Inv.latchOvf {s : State} (h : Inv s) (o : Bool) : Inv (latchOvf o s) :=
  h.with_ovf_host (s.ovf || o) s.inputs s.freeReads

theorem Inv.fetch {s : State} (h : Inv s) : Inv (fetch s).2 := by
  rw [fetch_registers]
  exact h.with_ovf_host s.ovf _ _

/-! ## The invariants of the game's registers, state by state -/

/-- The bounds of R29 (c), (d), (h) and R150 on `stage`, `idle`, `phase` and `asleep`, one line per game state. -/
def StateBounds (s : State) : Prop :=
  match s.state with
  | .init   => s.asleep = false ∧ s.stage ≤ s.P.maxStage ∧ s.idle ≤ s.P.idleTimeout ∧ s.phase ≤ s.P.spinPeriod
  | .active =>
    s.stage ≤ s.P.maxStage ∧ s.idle ≤ s.P.idleTimeout + s.asleep.toNat ∧ s.phase ≤ s.P.basePeriod
  | .fail   => s.asleep = false ∧ s.stage ≤ s.P.maxStage ∧ s.idle ≤ s.P.idleTimeout + 1 ∧ s.phase ≤ s.P.failTicks
  | .win    => s.asleep = false ∧ s.stage = s.P.maxStage + 1 ∧ s.idle ≤ s.P.idleTimeout ∧ s.phase ≤ s.P.winTicks

/-- The part of the invariants that is about the game's registers and the debouncer's count, without the pins. -/
structure GameInv (s : State) : Prop where
  cnt_le : s.btn.cnt ≤ s.P.th
  pass_le : s.pass ≤ s.P.passThreshold
  bounds : StateBounds s

theorem Inv.gameInv {s : State} (h : Inv s) : GameInv s := by
  refine ⟨h.cnt_le, h.pass_le, ?_⟩
  have hawake : s.state ≠ .active → s.asleep = false := fun hs =>
    Bool.eq_false_iff.2 fun ha => hs (h.asleep_off ha).1
  have hidle : s.asleep = false → s.state ≠ .fail → s.idle ≤ s.P.idleTimeout := fun ha hs => by
    have hne : s.idle ≠ s.P.idleTimeout + 1 := fun e => by simpa [ha, hs] using h.idle_eq e
    have := h.idle_le
    omega
  have hstage := h.stage_le
  have hphase := h.phase_le
  unfold StateBounds
  cases hs : s.state <;> simp only [hs] at hawake hidle hstage hphase
  case init => exact ⟨hawake nofun, hstage nofun, hidle (hawake nofun) nofun, hphase⟩
  case active =>
    refine ⟨hstage nofun, ?_, hphase⟩
    cases ha : s.asleep
    · exact hidle ha nofun
    · exact h.idle_le
  case fail => exact ⟨hawake nofun, hstage nofun, h.idle_le, hphase⟩
  case win => exact ⟨hawake nofun, h.stage_win hs, hidle (hawake nofun) nofun, hphase⟩

/-- What the bounds of each game state say in the words of R29 (c), (d) and (h). -/
theorem StateBounds.clauses {s : State} (h : StateBounds s) :
    (s.state ≠ .win → s.stage ≤ s.P.maxStage) ∧ (s.state = .win → s.stage = s.P.maxStage + 1) ∧
    s.idle ≤ s.P.idleTimeout + 1 ∧ (s.idle = s.P.idleTimeout + 1 → s.asleep = true ∨ s.state = .fail) ∧
    (s.asleep = true → s.state = .active) := by
  unfold StateBounds at h
  cases hs : s.state <;> simp only [hs] at h
  case active =>
    cases ha : s.asleep <;> simp [ha] at h ⊢ <;> omega
  all_goals
    obtain ⟨ha, hstage, hidle, -⟩ := h
    simp [ha] at hstage hidle ⊢
    omega

/-- The pins outside MUX_BIT at their reset values (R29 f). -/
def OtherPinsReset (s : State) : Prop :=
  ∀ n, n ∉ s.P.muxBit →
    s.ddr.getLsbD n = (decide (n = s.P.btnBit) && s.P.btnDdrReset) ∧
    s.port.getLsbD n = (decide (n = s.P.btnBit) && s.P.btnPortReset)

/-- No LED write moves a pin outside MUX_BIT (R83). -/
theorem OtherPinsReset.ledWrite {s : State} (h : OtherPinsReset s) (cmd : BitVec 5) :
    OtherPinsReset (ledWrite cmd s) := by
  intro n hn
  rw [ledWrite_frame] at hn
  obtain ⟨hddr, hport⟩ := ledWrite_other cmd s n hn
  obtain ⟨hd, hp⟩ := h n hn
  rw [hddr, hport, ledWrite_frame]
  exact ⟨hd, hp⟩

/-- DISPLAY is LED.OFF while asleep (R102). -/
theorem display_asleep {s : State} (h : s.asleep = true) : display s = Led.off := by simp [display, h]

/-- The LED write of DISPLAY completes the game's invariants to the invariants: it gives the multiplexed pins their
command, none while asleep, and leaves the rest (R29 f to i). -/
theorem GameInv.inv_ledWrite_display {s : State} (h : GameInv s) (hprev : s.btn.prev = s.btn.filt)
    (hpins : OtherPinsReset s) : Inv (ledWrite (display s) s) := by
  have hshow := ledWrite_pins (display s) s
  have hother := hpins.ledWrite (display s)
  have hoff : s.asleep = true → PinsShow none (ledWrite (display s) s) := fun ha => by
    simpa [display_asleep ha] using hshow
  rw [ledWrite_frame] at hshow hother hoff ⊢
  obtain ⟨hstage, hwin, hidle, heq, hactive⟩ := h.bounds.clauses
  exact {
    cnt_le := h.cnt_le
    stage_le := hstage
    stage_win := hwin
    idle_le := hidle
    idle_eq := heq
    pass_le := h.pass_le
    other_pins := hother
    mux_pins := ⟨_, hshow⟩
    asleep_off := fun ha => ⟨hactive ha, hoff ha⟩
    prev_eq := hprev
    phase_le := by
      have hb := h.bounds
      unfold StateBounds at hb
      cases hs : s.state <;> simp only [hs] at hb ⊢ <;> tauto }

/-! ## RESET, WAKE and TICK -/

/-- The registers GAME_INIT leaves in an awake block are within the bounds (R92). -/
theorem gameInit_gameInv (r : Nibble) {s : State} (ha : s.asleep = false) : GameInv (gameInit r s) := by
  exact ⟨Nat.zero_le _, Nat.zero_le _, ha, Nat.zero_le _, Nat.zero_le _, Nat.zero_le _⟩

theorem reset_inv (r : Nibble) (s : State) : Inv (reset r s) where
  cnt_le := Nat.zero_le _
  stage_le _ := Nat.zero_le _
  stage_win := nofun
  idle_le := Nat.zero_le _
  idle_eq := nofun
  pass_le := Nat.zero_le _
  other_pins n _ := ⟨reset_ddr_bit r s n, reset_port_bit r s n⟩
  mux_pins := ⟨none, reset_pins r s⟩
  asleep_off := nofun
  prev_eq := rfl
  phase_le := Nat.zero_le _

theorem wake_inv (r : Nibble) {s : State} (h : OtherPinsReset s) : Inv (wake r s) := by
  have hg := gameInit_gameInv r (s := { s with asleep := false }) rfl
  exact GameInv.inv_ledWrite_display (s := commitPrev (gameInit r { s with asleep := false }))
    ⟨hg.cnt_le, hg.pass_le, hg.bounds⟩ rfl h

theorem period_le_basePeriod (I : Instance) (g : Nat) : period I.params g ≤ I.params.basePeriod := by
  have hle := I.period_bounds.2
  unfold period
  dsimp only
  split <;> omega

theorem debounceCount_le {th c : Nat} (b : Bool) (h : c ≤ th) : debounceCount th b c ≤ th := by
  obtain ⟨-, hlt, e⟩ | ⟨-, -, e⟩ | ⟨e, -⟩ := debounceCount_cases th b c <;> omega

/-- Acknowledge and DEBOUNCE keep the game's invariants (R74). -/
theorem GameInv.tickStart {s : State} (h : GameInv s) (b : Bool) : GameInv (tickStart b s) :=
  ⟨debounceCount_le b h.cnt_le, h.pass_le, h.bounds⟩

/-- What ACTIVE.COUNT and ACTIVE.MOVE leave: one more idle tick, a phase within BASE_PERIOD, some cursor (R96, R97). -/
theorem activeMove_activeCount (s : State) :
    ∃ ph c, ph ≤ s.P.basePeriod ∧
      activeMove (activeCount s) = { s with idle := s.idle + 1, phase := ph, cursor := c } := by
  obtain ⟨hle, h⟩ | ⟨-, h⟩ := activeMove_cases (activeCount s)
  · exact ⟨_, _, Nat.le_trans hle (period_le_basePeriod s.inst _), h⟩
  · exact ⟨_, _, Nat.zero_le _, h⟩

/-- STEP.ACTIVE counts, moves, and then waits, falls asleep, hits and stays, hits and wins, or misses (R95 to R99). -/
theorem stepActive_cases (p : Bool) (r : Nibble) {s : State} (hs : s.state = .active) :
    let m := activeMove (activeCount s)
    (p = false ∧ m.idle ≤ m.P.idleTimeout ∧ stepActive p r s = m) ∨
    (p = false ∧ m.P.idleTimeout < m.idle ∧ stepActive p r s = { m with asleep := true }) ∨
    (p = true ∧ m.cursor = m.target ∧ m.stage + 1 ≤ m.P.maxStage ∧
      stepActive p r s = { m with idle := 0, dir := !m.dir, target := r, stage := m.stage + 1 }) ∨
    (p = true ∧ m.cursor = m.target ∧ m.P.maxStage < m.stage + 1 ∧
      stepActive p r s = { m with
        idle := 0, dir := !m.dir, target := r, stage := m.stage + 1, state := .win, phase := 0 }) ∨
    (p = true ∧ m.cursor ≠ m.target ∧ stepActive p r s = { m with state := .fail, phase := 0 }) := by
  intro m
  have hm : m.state = .active := by
    obtain ⟨_, _, -, h⟩ := activeMove_activeCount s
    simpa [m, h] using hs
  have hdef : stepActive p r s = activeTimeout (if p then activePress r m else m) := rfl
  cases p
  · obtain ⟨-, hlt, h⟩ | ⟨hno, h⟩ := activeTimeout_cases m
    · exact .inr (.inl ⟨rfl, hlt, h⟩)
    · exact .inl ⟨rfl, Nat.le_of_not_lt fun hlt => hno ⟨hm, hlt⟩, h⟩
  · rw [if_pos rfl] at hdef
    obtain ⟨hc, hst, h⟩ | ⟨hc, hst, h⟩ | ⟨hc, h⟩ := activePress_cases r m <;> rw [h] at hdef
    · exact .inr (.inr (.inl ⟨rfl, hc, hst, by simp [hdef, activeTimeout]⟩))
    · exact .inr (.inr (.inr (.inl ⟨rfl, hc, hst, by simp [hdef, activeTimeout]⟩)))
    · exact .inr (.inr (.inr (.inr ⟨rfl, hc, by simp [hdef, activeTimeout]⟩)))

theorem GameInv.stepInit {s : State} (h : GameInv s) (hs : s.state = .init) (r : Nibble) :
    GameInv (stepInit r s) := by
  obtain ⟨hcnt, hpass, hb⟩ := h
  simp only [StateBounds, hs] at hb
  obtain ⟨ha, hstage, hidle, -⟩ := hb
  obtain ⟨hle, e⟩ | ⟨-, -, e⟩ | ⟨-, -, hle, e⟩ | ⟨-, -, -, e⟩ := stepInit_cases r s <;> rw [e]
  · exact ⟨hcnt, hpass, by simpa [StateBounds, hs] using ⟨ha, hstage, hidle, hle⟩⟩
  · exact ⟨hcnt, hpass, by simpa [StateBounds, hs] using ⟨ha, hstage, hidle⟩⟩
  · exact ⟨hcnt, hle, by simpa [StateBounds, hs] using ⟨ha, hstage, hidle⟩⟩
  · exact ⟨hcnt, Nat.zero_le _, by simp [StateBounds]⟩

theorem GameInv.stepActive {s : State} (h : GameInv s) (hs : s.state = .active) (ha : s.asleep = false) (p : Bool)
    (r : Nibble) : GameInv (stepActive p r s) := by
  obtain ⟨hcnt, hpass, hb⟩ := h
  simp only [StateBounds, hs, ha] at hb
  obtain ⟨hstage, hidle, -⟩ := hb
  obtain ⟨ph, c, hph, hm⟩ := activeMove_activeCount s
  have hcases := stepActive_cases p r hs
  simp only [hm] at hcases
  obtain ⟨-, hle, e⟩ | ⟨-, -, e⟩ | ⟨-, -, hle, e⟩ | ⟨-, -, hlt, e⟩ | ⟨-, -, e⟩ := hcases <;> rw [e]
  · exact ⟨hcnt, hpass, by simpa [StateBounds, hs, ha] using ⟨hstage, hle, hph⟩⟩
  · exact ⟨hcnt, hpass, by simpa [StateBounds, hs] using ⟨hstage, hidle, hph⟩⟩
  · exact ⟨hcnt, hpass, by simpa [StateBounds, hs, ha] using ⟨hle, hph⟩⟩
  · exact ⟨hcnt, hpass, by simpa [StateBounds, ha] using Nat.le_antisymm hstage (Nat.le_of_lt_succ hlt)⟩
  · exact ⟨hcnt, hpass, by simpa [StateBounds, ha] using ⟨hstage, hidle⟩⟩

theorem GameInv.stepFail {s : State} (h : GameInv s) (hs : s.state = .fail) (r : Nibble) :
    GameInv (stepFail r s) := by
  obtain ⟨hcnt, hpass, hb⟩ := h
  simp only [StateBounds, hs] at hb
  obtain ⟨ha, hstage, hidle, -⟩ := hb
  obtain ⟨hle, e⟩ | ⟨-, e⟩ := stepFail_cases r s <;> rw [e]
  · exact ⟨hcnt, hpass, by simpa [StateBounds, hs] using ⟨ha, hstage, hidle, hle⟩⟩
  · exact gameInit_gameInv r ha

theorem GameInv.stepWin {s : State} (h : GameInv s) (hs : s.state = .win) (r : Nibble) :
    GameInv (stepWin r s) := by
  obtain ⟨hcnt, hpass, hb⟩ := h
  simp only [StateBounds, hs] at hb
  obtain ⟨ha, hstage, hidle, -⟩ := hb
  obtain ⟨hle, e⟩ | ⟨-, e⟩ := stepWin_cases r s <;> rw [e]
  · exact ⟨hcnt, hpass, by simpa [StateBounds, hs] using ⟨ha, hstage, hidle, hle⟩⟩
  · exact gameInit_gameInv r ha

/-- The step operation of an awake block keeps the game's invariants, whichever it is (R93). -/
theorem GameInv.gameStep {s : State} (h : GameInv s) (ha : s.asleep = false) (p : Bool) (r : Nibble) :
    GameInv (gameStep p r s) := by
  unfold Machine.gameStep
  cases hs : s.state with
  | init => exact h.stepInit hs r
  | active => exact h.stepActive hs ha p r
  | fail => exact h.stepFail hs r
  | win => exact h.stepWin hs r

theorem Inv.tick {s : State} (h : Inv s) (ha : s.asleep = false) (b : Bool) (r : Nibble) : Inv (tick b r s) := by
  have hg : GameInv (tickStepped b r s) := by
    obtain ⟨hcnt, hpass, hb⟩ := (h.gameInv.tickStart b).gameStep ha (Machine.tickStart b s).btn.press r
    exact ⟨hcnt, hpass, hb⟩
  have hpins : OtherPinsReset (tickStepped b r s) := by
    obtain ⟨⟨hddr, hport, -⟩, -⟩ :=
      gameStep_frame (Machine.tickStart b s).btn.press r (Machine.tickStart b s)
    intro n hn
    rw [State.P_eq, tickStepped_inst] at hn ⊢
    rw [tickStepped, commitPrev_ddr, commitPrev_port, hddr, hport]
    exact h.other_pins n hn
  exact hg.inv_ledWrite_display rfl hpins

theorem Inv.cycle {w : Byte} {s t : State} (h : Inv s) (ht : cycle w s = .next t) : Inv t := by
  obtain ⟨-, e⟩ | ⟨-, -, -, e⟩ | ⟨-, -, -, e⟩ | ⟨-, ha, -, e⟩ | ⟨-, -, -, e⟩ := cycle_cases w s <;>
    obtain rfl := Host.Outcome.next.inj (e.symm.trans ht)
  · exact reset_inv _ s
  · exact (wake_inv _ h.other_pins).latchOvf _
  · exact h.latchOvf _
  · exact (h.tick ha _ _).latchOvf _
  · exact h.latchOvf _

/-- Settles O41: a step is the cycle of the fetched word, and the fetch touches nothing the invariants speak of. -/
theorem stepKeepsInv : Obligations.StepKeepsInv :=
  fun _ _ h ht => h.fetch.cycle (step_eq _ ▸ ht)

/-- Settles O40: RESET meets the invariants from any state, and State.reset is what a RESET leaves of itself. -/
theorem invHoldsAfterReset : Obligations.InvHoldsAfterReset :=
  ⟨fun s r => ⟨reset r s, exec_reset r s, reset_inv r s⟩, reset_inv 0 State.reset⟩

end Sys2Proof.Machine
end

section
/-! PROOFS. What pins that show an LED command say of the lit LEDs (20_memory.md R44, 43_led_driver.md R84), and with it
what the invariants say of them. -/

namespace Sys2Proof.Machine

open Sys2Proof

theorem pinMode_outputHigh_iff (ddr port : Byte) (n : Nat) :
    pinMode ddr port n = .outputHigh ↔ ddr.getLsbD n = true ∧ port.getLsbD n = true := by
  unfold pinMode
  cases ddr.getLsbD n <;> cases port.getLsbD n <;> simp

theorem pinMode_outputLow_iff (ddr port : Byte) (n : Nat) :
    pinMode ddr port n = .outputLow ↔ ddr.getLsbD n = true ∧ port.getLsbD n = false := by
  unfold pinMode
  cases ddr.getLsbD n <;> cases port.getLsbD n <;> simp

/-- An LED is lit exactly when its drive pin is an output high and its sink pin an output low (R34, R44). -/
theorem mem_lit_iff (P : Params) (ddr port : Byte) (i : Nibble) :
    i ∈ lit P ddr port ↔
      pinMode ddr port (muxBitOf P (tableRead P i).drive) = .outputHigh ∧
      pinMode ddr port (muxBitOf P (tableRead P i).sink) = .outputLow := by
  have hall : i ∈ (List.range nLed).map (BitVec.ofNat 4) :=
    List.mem_map.2 ⟨i.toNat, List.mem_range.2 i.isLt, BitVec.ofNat_toNat 4 i ▸ i.setWidth_eq⟩
  simp [lit, hall, isLit, pinMode_outputHigh_iff, pinMode_outputLow_iff, and_assoc]

theorem lit_nodup (P : Params) (ddr port : Byte) : (lit P ddr port).Nodup := by
  have hall : ((List.range nLed).map (BitVec.ofNat 4)).Nodup := by decide
  exact hall.filter _

/-- Under INJ_TABLE two LEDs with one table entry are one LED (R31). -/
theorem tableRead_inj {P : Params} (h : P.injTable = true) {i j : Nibble} (he : tableRead P i = tableRead P j) :
    i = j := by
  simp only [Params.injTable, Bool.and_eq_true, decide_eq_true_eq] at h
  exact BitVec.eq_of_toNat_eq ((h.2.getElem_inj_iff (hi := by simpa using i.isLt) (hj := by simpa using j.isLt)).1
    (by simpa [tableRead] using he))

section Shown

variable {s : State} {i : Nibble}

theorem PinsShow.outputHigh_iff (h : PinsShow (some i) s) {k : Nat} (hk : k < s.P.nMux) :
    pinMode s.ddr s.port (muxBitOf s.P k) = .outputHigh ↔ k = (tableRead s.P i).drive := by
  rw [h k hk]
  dsimp only
  split_ifs <;> simp_all

theorem PinsShow.outputLow_iff (h : PinsShow (some i) s) {k : Nat} (hk : k < s.P.nMux) :
    pinMode s.ddr s.port (muxBitOf s.P k) = .outputLow ↔ k = (tableRead s.P i).sink := by
  obtain ⟨-, -, hne⟩ := tableRead_wf s.inst i
  rw [h k hk]
  dsimp only
  split_ifs <;> simp_all

theorem PinsShow.highZ (h : PinsShow (some i) s) {k : Nat} (hk : k < s.P.nMux) (hd : k ≠ (tableRead s.P i).drive)
    (hs : k ≠ (tableRead s.P i).sink) : pinMode s.ddr s.port (muxBitOf s.P k) = .highZ := by
  rw [h k hk]
  simp only [hd, hs, if_false]

/-- After LED.SET i the LEDs with the table entry of i are lit, and no other (R84). -/
theorem PinsShow.mem_lit_iff (h : PinsShow (some i) s) (j : Nibble) :
    j ∈ lit s.P s.ddr s.port ↔ tableRead s.P j = tableRead s.P i := by
  obtain ⟨hd, hk, -⟩ := tableRead_wf s.inst j
  rw [Machine.mem_lit_iff, h.outputHigh_iff hd, h.outputLow_iff hk]
  cases tableRead s.P j
  cases tableRead s.P i
  simp

/-- After LED.OFF no LED is lit (R84). -/
theorem PinsShow.lit_none (h : PinsShow none s) : lit s.P s.ddr s.port = [] := by
  refine List.eq_nil_iff_forall_not_mem.2 fun j hj => ?_
  rw [Machine.mem_lit_iff, h _ (tableRead_wf s.inst j).1] at hj
  exact absurd hj.1 nofun

/-- Under INJ_TABLE at most one LED is lit, whatever command the pins show (R84). -/
theorem PinsShow.lit_length_le_one {c : Option Nibble} (h : PinsShow c s) (hinj : s.P.injTable = true) :
    (lit s.P s.ddr s.port).length ≤ 1 := by
  cases c with
  | none => simp [h.lit_none]
  | some i =>
    have hsub : lit s.P s.ddr s.port ⊆ [i] := fun j hj =>
      List.mem_singleton.2 (tableRead_inj hinj ((h.mem_lit_iff j).1 hj))
    exact ((lit_nodup _ _ _).subperm hsub).length_le

end Shown

/-- Settles O43: the pins show some command (R29 g), and LED.OFF while asleep (R29 h). -/
theorem atMostOneLedIsDriven : Obligations.AtMostOneLedIsDriven := by
  intro s h
  obtain ⟨c, hc⟩ := h.mux_pins
  refine ⟨?_, hc.lit_length_le_one, fun ha => (h.asleep_off ha).2.lit_none⟩
  cases c with
  | none => exact .inl hc
  | some i =>
    obtain ⟨hd, hk, hne⟩ := tableRead_wf s.inst i
    exact .inr ⟨_, _, hd, hk, hne, (hc.outputHigh_iff hd).2 rfl, (hc.outputLow_iff hk).2 rfl,
      fun _ hl hld hlk => hc.highZ hl hld hlk⟩

end Sys2Proof.Machine
end

section
/-! PROOFS. The port bits that belong to no multiplexed pin (20_memory.md R33, 43_led_driver.md R83,
70_reset_and_hazards.md R138): the LED write is the only write of WAKE and TICK to the port, and its mask spares them. -/

namespace Sys2Proof.Machine

open Sys2Proof

/-- An LED write from a state with the port and the constants of `s` keeps the other pins of `s` (R83). -/
theorem ledWrite_other_of_same_port {s u : State} (hinst : u.inst = s.inst) (hddr : u.ddr = s.ddr)
    (hport : u.port = s.port) (cmd : BitVec 5) : OtherPinsKept s (ledWrite cmd u) := by
  intro n hn
  rw [State.P_eq, ← hinst] at hn
  rw [← hddr, ← hport]
  exact ledWrite_other cmd u n hn

/-- WAKE writes the port by its LED command alone (R118). -/
theorem wake_other (r : Nibble) (s : State) : OtherPinsKept s (wake r s) := by
  rw [wake_eq]
  exact ledWrite_other_of_same_port (u := commitPrev (gameInit r { s with asleep := false })) rfl rfl rfl _

/-- TICK writes the port by its LED command alone: its step operation keeps both bytes (R63). -/
theorem tick_other (b : Bool) (r : Nibble) (s : State) : OtherPinsKept s (tick b r s) := by
  obtain ⟨⟨hddr, hport, -⟩, -⟩ := gameStep_frame (tickStart b s).btn.press r (tickStart b s)
  rw [tick_eq]
  exact ledWrite_other_of_same_port (tickStepped_inst b r s) hddr hport _

/-- The overflow latch is no port bit (R61). -/
theorem OtherPinsKept.latchOvf {s t : State} (h : OtherPinsKept s t) (o : Bool) :
    OtherPinsKept s (latchOvf o t) := h

/-- Settles O18: HOLD and IDLE write no port bit, WAKE and TICK only those of their LED write. -/
theorem onlyResetTouchesOtherPins : Obligations.OnlyResetTouchesOtherPins := by
  intro w s t hrst ht
  have hkept : OtherPinsKept s s := fun _ _ => ⟨rfl, rfl⟩
  obtain ⟨hreset, -⟩ | ⟨-, -, -, e⟩ | ⟨-, -, -, e⟩ | ⟨-, -, -, e⟩ | ⟨-, -, -, e⟩ := cycle_cases w s
  · exact absurd hreset (by simp [hrst])
  all_goals obtain rfl := Host.Outcome.next.inj (e.symm.trans ht)
  · exact (wake_other _ s).latchOvf _
  · exact hkept.latchOvf _
  · exact (tick_other _ _ s).latchOvf _
  · exact hkept.latchOvf _

end Sys2Proof.Machine
end

section
/-! PROOFS. The encodings of 30_encoding.md R46 to R51: a byte is its five fields, the row of R47 decodes it, and the mask
of that row keeps or drops each field whole. -/

namespace Sys2Proof

open Machine

/-! ## Fields of the cycle input word (R46) -/

namespace Cyc

section Word
variable (r w o b : Bool) (n : Nibble)

/-- R46, bit by bit. -/
theorem word_getLsbD {i : Nat} (hi : i < 8) :
    (word r w o b n).getLsbD i =
      if i < 4 then n.getLsbD i else if i = 4 then b else if i = 5 then o else if i = 6 then w else r := by
  interval_cases i <;> simp only [word, BitVec.getLsbD_append] <;> simp

@[simp] theorem rst_word : rst (word r w o b n) = r := word_getLsbD r w o b n (i := 7) (by decide)
@[simp] theorem wake_word : wake (word r w o b n) = w := word_getLsbD r w o b n (i := 6) (by decide)
@[simp] theorem ovfSet_word : ovfSet (word r w o b n) = o := word_getLsbD r w o b n (i := 5) (by decide)
@[simp] theorem btnN_word : btnN (word r w o b n) = b := word_getLsbD r w o b n (i := 4) (by decide)
@[simp] theorem rnd_word : rnd (word r w o b n) = n :=
  BitVec.eq_of_getLsbD_eq fun i hi => by
    rw [rnd, BitVec.getLsbD_extractLsb', word_getLsbD r w o b n (by omega)]
    simp [hi]

end Word

section And
variable (w m : Byte)

@[simp] theorem rst_and : rst (w &&& m) = (rst w && rst m) := BitVec.getLsbD_and
@[simp] theorem wake_and : wake (w &&& m) = (wake w && wake m) := BitVec.getLsbD_and
@[simp] theorem ovfSet_and : ovfSet (w &&& m) = (ovfSet w && ovfSet m) := BitVec.getLsbD_and
@[simp] theorem btnN_and : btnN (w &&& m) = (btnN w && btnN m) := BitVec.getLsbD_and
@[simp] theorem rnd_and : rnd (w &&& m) = rnd w &&& rnd m := BitVec.extractLsb'_and

end And

/-- The five fields hold every bit of the word. -/
theorem word_fields (w : Byte) : word (rst w) (wake w) (ovfSet w) (btnN w) (rnd w) = w := by
  refine BitVec.eq_of_getLsbD_eq fun i hi => ?_
  rw [word_getLsbD _ _ _ _ _ hi]
  interval_cases i <;> simp [rst, wake, ovfSet, btnN, rnd]

theorem ext_iff {w w' : Byte} :
    w = w' ↔ rst w = rst w' ∧ wake w = wake w' ∧ ovfSet w = ovfSet w' ∧ btnN w = btnN w' ∧ rnd w = rnd w' := by
  refine ⟨fun h => h ▸ ⟨rfl, rfl, rfl, rfl, rfl⟩, fun ⟨hr, hw, ho, hb, hn⟩ => ?_⟩
  rw [← word_fields w, ← word_fields w', hr, hw, ho, hb, hn]

section Masked
variable {w m v : Byte} (h : w &&& m = v)
include h

/-- A match on a mask with the `rst` bit fixes that bit. -/
theorem rst_of_and (hm : rst m = true) : rst w = rst v := by rw [← h, rst_and, hm, Bool.and_true]

/-- A match on a mask with the `wake` bit fixes that bit. -/
theorem wake_of_and (hm : wake m = true) : wake w = wake v := by rw [← h, wake_and, hm, Bool.and_true]

end Masked

end Cyc

/-! ## The rows of R47, R48 and R49 -/

section Rows
variable {asleep ovf : Bool} {w : Byte}

theorem decodeCyc_reset (hr : Cyc.rst w = true) : decodeCyc asleep ovf w = .reset (Cyc.rnd w) := by
  simp [decodeCyc, hr]

theorem decodeCyc_wake (hr : Cyc.rst w = false) (ha : asleep = true) (hw : Cyc.wake w = true) :
    decodeCyc asleep ovf w = .wake (Cyc.ovfSet w) (Cyc.rnd w) := by
  simp [decodeCyc, hr, ha, hw]

theorem decodeCyc_hold (hr : Cyc.rst w = false) (ha : asleep = true) (hw : Cyc.wake w = false) :
    decodeCyc asleep ovf w = .hold (Cyc.ovfSet w) := by
  simp [decodeCyc, hr, ha, hw]

theorem decodeCyc_tick (hr : Cyc.rst w = false) (ha : asleep = false) (ho : ovf = true) :
    decodeCyc asleep ovf w = .tick (Cyc.ovfSet w) (Cyc.btnN w) (Cyc.rnd w) := by
  simp [decodeCyc, hr, ha, ho]

theorem decodeCyc_idle (hr : Cyc.rst w = false) (ha : asleep = false) (ho : ovf = false) :
    decodeCyc asleep ovf w = .idle (Cyc.ovfSet w) := by
  simp [decodeCyc, hr, ha, ho]

end Rows

/-- Which row of R47 a word selects. -/
theorem decodeCyc_cases (asleep ovf : Bool) (w : Byte) :
    (Cyc.rst w = true ∧ decodeCyc asleep ovf w = .reset (Cyc.rnd w)) ∨
    (Cyc.rst w = false ∧ asleep = true ∧ Cyc.wake w = true ∧
      decodeCyc asleep ovf w = .wake (Cyc.ovfSet w) (Cyc.rnd w)) ∨
    (Cyc.rst w = false ∧ asleep = true ∧ Cyc.wake w = false ∧ decodeCyc asleep ovf w = .hold (Cyc.ovfSet w)) ∨
    (Cyc.rst w = false ∧ asleep = false ∧ ovf = true ∧
      decodeCyc asleep ovf w = .tick (Cyc.ovfSet w) (Cyc.btnN w) (Cyc.rnd w)) ∨
    (Cyc.rst w = false ∧ asleep = false ∧ ovf = false ∧ decodeCyc asleep ovf w = .idle (Cyc.ovfSet w)) := by
  cases hr : Cyc.rst w
  · cases asleep
    · cases ovf
      · exact .inr (.inr (.inr (.inr ⟨rfl, rfl, rfl, decodeCyc_idle hr rfl rfl⟩)))
      · exact .inr (.inr (.inr (.inl ⟨rfl, rfl, rfl, decodeCyc_tick hr rfl rfl⟩)))
    · cases hw : Cyc.wake w
      · exact .inr (.inr (.inl ⟨rfl, rfl, rfl, decodeCyc_hold hr rfl hw⟩))
      · exact .inr (.inl ⟨rfl, rfl, rfl, decodeCyc_wake hr rfl hw⟩)
  · exact .inl ⟨rfl, decodeCyc_reset hr⟩

@[simp] theorem code_ofCode (c : BitVec 2) : (GameState.ofCode c).code = c := by revert c; decide

/-- Every code is the code of a game state (R11). -/
theorem code_surjective : Function.Surjective GameState.code := fun c => ⟨GameState.ofCode c, code_ofCode c⟩

/-! ## The masks of R51, field by field -/

@[simp] theorem nibble_and_ones (n : Nibble) : n &&& 15#4 = n := BitVec.and_allOnes

theorem careMask_reset (r : Nibble) : careMask (.reset r) = Cyc.word true false false false 15 := rfl
theorem careMask_wake (o : Bool) (r : Nibble) : careMask (.wake o r) = Cyc.word true true true false 15 := rfl
theorem careMask_hold (o : Bool) : careMask (.hold o) = Cyc.word true true true false 0 := rfl
theorem careMask_tick (o b : Bool) (r : Nibble) : careMask (.tick o b r) = Cyc.word true false true true 15 := rfl
theorem careMask_idle (o : Bool) : careMask (.idle o) = Cyc.word true false true false 0 := rfl

/-! ## Decoding and encoding -/

/-- Settles O9: the fields of an encoded word are its operands, and the context selects the row that reads them. -/
theorem decodeInvertsEncode : Obligations.DecodeInvertsEncode := by
  intro c i h
  cases i with
  | reset r => exact (decodeCyc_reset (Cyc.rst_word ..)).trans (by simp)
  | wake o r => exact (decodeCyc_wake (Cyc.rst_word ..) h (Cyc.wake_word ..)).trans (by simp)
  | hold o => exact (decodeCyc_hold (Cyc.rst_word ..) h (Cyc.wake_word ..)).trans (by simp)
  | tick o b r =>
    obtain ⟨ha, ho⟩ : c.asleep = false ∧ c.ovf = true := by simpa [Instr.selectedBy] using h
    exact (decodeCyc_tick (Cyc.rst_word ..) ha ho).trans (by simp)
  | idle o =>
    obtain ⟨ha, ho⟩ : c.asleep = false ∧ c.ovf = false := by simpa [Instr.selectedBy] using h
    exact (decodeCyc_idle (Cyc.rst_word ..) ha ho).trans (by simp)
  | stepInit r =>
    obtain rfl : c.r = r := of_decide_eq_true h
    rfl
  | stepActive p r =>
    obtain ⟨rfl, rfl⟩ : c.press = p ∧ c.r = r := of_decide_eq_true h
    rfl
  | stepFail r =>
    obtain rfl : c.r = r := of_decide_eq_true h
    rfl
  | stepWin r =>
    obtain rfl : c.r = r := of_decide_eq_true h
    rfl
  | ledSet i => simp [encode, decode, decodeLed]
  | ledOff => simp [encode, decode, decodeLed]

/-- R51: the encoder keeps the fields the selected row reads and writes zero in the others. -/
theorem encode_decodeCyc (asleep ovf : Bool) (w : Byte) :
    encode (decodeCyc asleep ovf w) = .cyc (w &&& careMask (decodeCyc asleep ovf w)) := by
  obtain ⟨hr, h⟩ | ⟨hr, -, hw, h⟩ | ⟨hr, -, hw, h⟩ | ⟨hr, -, -, h⟩ | ⟨hr, -, -, h⟩ :=
    decodeCyc_cases asleep ovf w <;> rw [h, encode, EncWord.cyc.injEq, Cyc.ext_iff]
  · simp [careMask_reset, hr]
  · simp [careMask_wake, hr, hw]
  · simp [careMask_hold, hr, hw]
  · simp [careMask_tick, hr]
  · simp [careMask_idle, hr]

theorem encode_decodeSt (c : BitVec 2) (press : Bool) (r : Nibble) : encode (decodeSt c press r) = .st c := by
  obtain ⟨g, rfl⟩ := code_surjective c
  cases g <;> rfl

/-- R49, R51: a word of LED.OFF comes back in its canonical form. -/
theorem encode_decodeLed (cmd : BitVec 5) :
    encode (decodeLed cmd) = .led (if Led.en cmd then cmd else Led.off) := by
  revert cmd; decide

/-- Settles O10: one clause per format. -/
theorem encodeInvertsDecodeOnUsedBits : Obligations.EncodeInvertsDecodeOnUsedBits :=
  fun c => ⟨fun w => encode_decodeCyc c.asleep c.ovf w, fun code => encode_decodeSt code c.press c.r, encode_decodeLed⟩

/-- R51: a word with the bits the selected row uses selects the same row with the same operands. -/
theorem decodeCyc_eq_of_careMask {asleep ovf : Bool} {w w' : Byte}
    (h : w &&& careMask (decodeCyc asleep ovf w) = w' &&& careMask (decodeCyc asleep ovf w)) :
    decodeCyc asleep ovf w' = decodeCyc asleep ovf w := by
  obtain ⟨hr, e⟩ | ⟨hr, ha, hw, e⟩ | ⟨hr, ha, hw, e⟩ | ⟨hr, ha, ho, e⟩ | ⟨hr, ha, ho, e⟩ :=
    decodeCyc_cases asleep ovf w <;> rw [e] at h ⊢
  · obtain ⟨hr', hn'⟩ : Cyc.rst w = Cyc.rst w' ∧ Cyc.rnd w = Cyc.rnd w' := by
      simpa [careMask_reset, Cyc.ext_iff] using h
    rw [decodeCyc_reset (hr' ▸ hr), hn']
  · obtain ⟨hr', hw', ho', hn'⟩ : Cyc.rst w = Cyc.rst w' ∧ Cyc.wake w = Cyc.wake w' ∧
        Cyc.ovfSet w = Cyc.ovfSet w' ∧ Cyc.rnd w = Cyc.rnd w' := by
      simpa [careMask_wake, Cyc.ext_iff] using h
    rw [decodeCyc_wake (hr' ▸ hr) ha (hw' ▸ hw), ho', hn']
  · obtain ⟨hr', hw', ho'⟩ : Cyc.rst w = Cyc.rst w' ∧ Cyc.wake w = Cyc.wake w' ∧
        Cyc.ovfSet w = Cyc.ovfSet w' := by
      simpa [careMask_hold, Cyc.ext_iff] using h
    rw [decodeCyc_hold (hr' ▸ hr) ha (hw' ▸ hw), ho']
  · obtain ⟨hr', ho', hb', hn'⟩ : Cyc.rst w = Cyc.rst w' ∧ Cyc.ovfSet w = Cyc.ovfSet w' ∧
        Cyc.btnN w = Cyc.btnN w' ∧ Cyc.rnd w = Cyc.rnd w' := by
      simpa [careMask_tick, Cyc.ext_iff] using h
    rw [decodeCyc_tick (hr' ▸ hr) ha ho, ho', hb', hn']
  · obtain ⟨hr', ho'⟩ : Cyc.rst w = Cyc.rst w' ∧ Cyc.ovfSet w = Cyc.ovfSet w' := by
      simpa [careMask_idle, Cyc.ext_iff] using h
    rw [decodeCyc_idle (hr' ▸ hr) ha ho, ho']

/-- Settles O11: the two words decode to one operation. -/
theorem ignoredFieldsDoNotMatter : Obligations.IgnoredFieldsDoNotMatter := by
  intro s w w' h
  rw [cycle, cycle, decodeCyc_eq_of_careMask h]

/-! ## The selection table and words of the spec -/

/-- Settles O7: the masks and matches of the table fix the fields `rst` and `wake`, hence the row. -/
theorem cycleSelectionFollowsTheTable : Obligations.CycleSelectionFollowsTheTable := by
  intro asleep ovf w
  refine ⟨fun h => ?_, fun h ha => ?_, fun h ha => ?_, fun h ha ho => ?_, fun h ha ho => ?_⟩
  · exact decodeCyc_reset (Cyc.rst_of_and h rfl)
  · exact decodeCyc_wake (Cyc.rst_of_and h rfl) ha (Cyc.wake_of_and h rfl)
  · exact decodeCyc_hold (Cyc.rst_of_and h rfl) ha (Cyc.wake_of_and h rfl)
  · exact decodeCyc_tick (Cyc.rst_of_and h rfl) ha ho
  · exact decodeCyc_idle (Cyc.rst_of_and h rfl) ha ho

/-- Settles O8: each word is closed, and the decoder computes. -/
theorem specWordsDecode : Obligations.SpecWordsDecode := by
  unfold Obligations.SpecWordsDecode
  decide

end Sys2Proof
end

section
/-! PROOFS. The operation a TICK runs (30_encoding.md R48) and the bytes a script assembles to (R52, R53), with what the
cycles of each pseudo-instruction do. -/

namespace Sys2Proof.Machine

open Sys2Proof

/-! ## The codes a TICK hands on (R48, R49) -/

/-- R48, R93: the code in `state` selects the step operation that STEP runs. -/
theorem exec_decodeSt_state (press : Bool) (r : Nibble) (s : State) :
    exec (decodeSt s.state.code press r) s = .next (gameStep press r s) := by
  rw [gameStep]
  cases s.state <;> rfl

/-- R49, R82: LEDWRITE runs the operation its command word decodes to. -/
theorem exec_decodeLed (cmd : BitVec 5) (s : State) : exec (decodeLed cmd) s = .next (ledWrite cmd s) := by
  rw [decodeLed, ledWrite]
  split <;> rfl

@[simp] theorem ledWrite_ovf (cmd : BitVec 5) (s : State) : (ledWrite cmd s).ovf = s.ovf := by rw [ledWrite_eq]; rfl

/-- R63: a TICK acknowledges the pending overflow, and nothing after the acknowledge sets it. -/
@[simp] theorem tick_ovf (b : Bool) (r : Nibble) (s : State) : (tick b r s).ovf = false := by
  obtain ⟨⟨-, -, hovf⟩, -⟩ := gameStep_frame (tickStart b s).btn.press r (tickStart b s)
  rw [tick_eq, ledWrite_ovf]
  exact hovf

/-- Settles O19: the two halves of a TICK are the two decoded operations, and the latch meets a cleared flag. -/
theorem tickRunsTheSelectedStep : Obligations.TickRunsTheSelectedStep := by
  refine ⟨rfl, rfl, rfl, rfl, fun o btnN r s => ?_⟩
  refine ⟨gameStep (tickStart (!btnN) s).btn.press r (tickStart (!btnN) s), tick (!btnN) r s, ?_, ?_, ?_⟩
  · exact exec_decodeSt_state _ r (tickStart (!btnN) s)
  · exact exec_decodeLed _ (tickStepped (!btnN) r s)
  · simp [exec_tick, rawLevel, latchOvf]

/-! ## Ticks of a run (R64) -/

/-- R64 by the table of R47: a cycle acknowledges if it is no RESET and finds the block running with one pending. -/
theorem ovfClr_eq (w : Byte) (s : State) : ovfClr w s = (!Cyc.rst w && !s.asleep && s.ovf) := by
  obtain ⟨hr, h⟩ | ⟨hr, ha, -, h⟩ | ⟨hr, ha, -, h⟩ | ⟨hr, ha, ho, h⟩ | ⟨hr, ha, ho, h⟩ :=
    decodeCyc_cases s.asleep s.ovf w <;> rw [ovfClr, h, hr]
  · rfl
  · rw [ha]; rfl
  · rw [ha]; rfl
  · rw [ha, ho]; rfl
  · rw [ha, ho]; rfl

theorem ticksIn_cons {w : Byte} {ws : List Byte} {s t : State} (h : cycle w s = .next t) :
    ticksIn s (w :: ws) = (if ovfClr w s then 1 else 0) + ticksIn t ws := by
  rw [ticksIn, h]

/-- Cycles that find the block running with an overflow pending and leave one pending are one tick each (R53). -/
theorem ticksIn_replicate {w : Byte} (hrst : Cyc.rst w = false) (hset : Cyc.ovfSet w = true) {n : Nat} {s : State}
    (hovf : s.ovf = true)
    (hawake : ∀ k, k < n → ∃ t, runInputs (List.replicate k w) s = .next t ∧ t.asleep = false) :
    ticksIn s (List.replicate n w) = n := by
  induction n generalizing s with
  | zero => rfl
  | succ n ih =>
    have ha : s.asleep = false := by
      obtain ⟨t, ht, ha⟩ := hawake 0 n.succ_pos
      obtain rfl := Host.Outcome.next.inj ht
      exact ha
    have hc := cycle_tick hrst ha hovf
    rw [List.replicate_succ, ticksIn_cons hc, ovfClr_eq, hrst, ha, hovf, ih (by simp [hset]), Nat.add_comm]
    · rfl
    · intro k hk
      obtain ⟨t, ht, ha⟩ := hawake (k + 1) (Nat.succ_lt_succ hk)
      rw [List.replicate_succ, runInputs_cons hc] at ht
      exact ⟨t, ht, ha⟩

/-! ## Lines and pseudo-instructions (R52, R53) -/

/-- R52: the five fields of a line's byte. -/
theorem lineWord_fields (l : ScriptLine) :
    Cyc.rst l.word = l.rst ∧ Cyc.wake l.word = l.wake ∧ Cyc.ovfSet l.word = l.ovf ∧
    Cyc.btnN l.word = (!l.press) ∧ Cyc.rnd l.word = l.r := by
  simp [ScriptLine.word]

/-- R53: the line `ovf r=0` in a running block with nothing pending is an IDLE that leaves an overflow pending. -/
theorem cycle_prime {s : State} (ha : s.asleep = false) (ho : s.ovf = false) :
    ovfClr 0x30 s = false ∧ cycle 0x30 s = .next { s with ovf := true } := by
  refine ⟨by simp [ovfClr_eq, ho], (cycle_idle rfl ha ho).trans ?_⟩
  rw [latchOvf, ho]; rfl

/-- R53: a TICK whose own word reports an overflow leaves the next one pending. -/
theorem cycle_tick_pending {w : Byte} {s : State} (hrst : Cyc.rst w = false) (hset : Cyc.ovfSet w = true)
    (ha : s.asleep = false) (ho : s.ovf = true) : ∃ t, cycle w s = .next t ∧ t.ovf = true :=
  ⟨_, cycle_tick hrst ha ho, by simp [hset]⟩

/-- R53: `drain` in a running block. -/
theorem drain_running {s : State} (ha : s.asleep = false) :
    ∃ ws t, ScriptItem.expandWords s.asleep s.ovf .drain = some ws ∧
      (∀ w ∈ ws, w = 0x10) ∧ runInputs ws s = .next t ∧ t.ovf = false ∧ ticksIn s ws ≤ 1 := by
  cases ho : s.ovf with
  | false => exact ⟨[], s.withInputs [], rfl, by simp, runInputs_nil s, ho, Nat.zero_le 1⟩
  | true =>
    have hc := cycle_tick (w := 0x10) rfl ha ho
    refine ⟨[0x10], _, by rw [ha]; rfl, by simp, runInputs_cons hc, ?_, ?_⟩
    · rw [withInputs_ovf, latchOvf_ovf, tick_ovf]; rfl
    · rw [ticksIn_cons hc, ticksIn]
      split <;> decide

/-- R53: the lines of `idle n` in a running block with none pending. -/
theorem idle_running (n : Nat) {s : State} (ha : s.asleep = false) (ho : s.ovf = false) :
    runInputs (List.replicate n 0x10) s = .next (s.withInputs []) ∧ ticksIn s (List.replicate n 0x10) = 0 := by
  have hc : cycle 0x10 s = .next s := (cycle_idle rfl ha ho).trans (congrArg _ (latchOvf_false s))
  induction n with
  | zero => exact ⟨rfl, rfl⟩
  | succ n ih =>
    obtain ⟨hrun, hticks⟩ := ih
    rw [List.replicate_succ, runInputs_cons hc, ticksIn_cons hc, hrun, hticks, ovfClr_eq, ho]
    simp

/-- Settles O48: the fields of a line's byte, the rule's examples, and one lemma per pseudo-instruction. -/
theorem scriptLinesAssemble : Obligations.ScriptLinesAssemble := by
  refine ⟨lineWord_fields, by decide, by decide, by decide, by decide, by decide, fun _ _ => rfl,
    fun s => cycle_prime, fun n press r => ?_, fun s => drain_running, fun n => ?_, fun n s => idle_running n⟩
  · obtain ⟨hrst, -, hset, hbtn, hrnd⟩ := lineWord_fields { ovf := true, press := press, r := r }
    refine ⟨_, rfl, fun _ _ => congrArg some List.map_replicate, fun s ha ho => ⟨?_, ?_⟩,
      fun s => ticksIn_replicate hrst hset⟩
    · rw [decodeCyc_tick hrst ha ho, hset, hbtn, hrnd]
    · exact cycle_tick_pending hrst hset ha ho
  · exact congrArg some List.map_replicate

end Sys2Proof.Machine
end

section
/-! PROOFS. The tick source (41_tick_source.md R60 to R65): the overflow flag of one cycle, the ticks it pays for, and the
pins a TICK or WAKE leaves (R63, R102, R118). -/

namespace Sys2Proof.Machine

open Sys2Proof

/-! ## The overflow flag (R60 to R62) -/

/-- Settles O3: both operations are the overflow latch and nothing else. -/
theorem idleAndHoldOnlyLatchOverflow : Obligations.IdleAndHoldOnlyLatchOverflow :=
  fun s o => ⟨exec_idle o s, exec_hold o s⟩

/-- R118: WAKE itself leaves a pending overflow pending. -/
@[simp] theorem wake_ovf (r : Nibble) (s : State) : (wake r s).ovf = s.ovf := by rw [wake_eq, ledWrite_ovf]; rfl

theorem cycle_completes (w : Byte) (s : State) : ∃ t, cycle w s = .next t := by
  obtain ⟨t, ht, -⟩ := exec_sameHost (decodeCyc s.asleep s.ovf w) s
  exact ⟨t, ht⟩

/-- R60, R61: what a cycle leaves in the overflow flag. -/
theorem cycle_ovf {w : Byte} {s t : State} (h : cycle w s = .next t) :
    t.ovf = (!Cyc.rst w && (Cyc.ovfSet w || (s.asleep && s.ovf))) := by
  obtain ⟨hr, e⟩ | ⟨hr, ha, -, e⟩ | ⟨hr, ha, -, e⟩ | ⟨hr, ha, -, e⟩ | ⟨hr, ha, ho, e⟩ := cycle_cases w s <;>
    obtain rfl := Host.Outcome.next.inj (e.symm.trans h)
  · simp [hr]
  · simp [hr, ha, Bool.or_comm]
  · simp [hr, ha, Bool.or_comm]
  · simp [hr, ha]
  · simp [hr, ha, ho]

/-- Settles O14: every cycle completes, and `cycle_ovf` says what it leaves in the flag. -/
theorem overflowFlagAfterACycle : Obligations.OverflowFlagAfterACycle := by
  intro w s
  obtain ⟨t, ht⟩ := cycle_completes w s
  exact ⟨t, ht, cycle_ovf ht⟩

/-! ## The acknowledge and the ticks it counts (R64, R65) -/

theorem ovfClr_eq_true_iff (w : Byte) (s : State) :
    ovfClr w s = true ↔ ∃ o b r, decodeCyc s.asleep s.ovf w = .tick o b r := by
  unfold ovfClr
  cases decodeCyc s.asleep s.ovf w <;> simp

/-- Settles O15: `ovf_clr` is read off the decoded operation, and the second clause is the first denied. -/
theorem ovfClrExactlyInTickCycles : Obligations.OvfClrExactlyInTickCycles := by
  intro w s
  have h : (outputs w s).ovfClr = true ↔ ∃ o b r, decodeCyc s.asleep s.ovf w = .tick o b r := ovfClr_eq_true_iff w s
  exact ⟨h, by rw [← Bool.not_eq_true, h]; simp⟩

/-- R65, one cycle: its tick and the overflow it leaves pending are paid for by the one it found pending and its own. -/
theorem tick_add_pending_le {w : Byte} {s t : State} (h : cycle w s = .next t) :
    (if ovfClr w s then 1 else 0) + (if t.ovf then 1 else 0) ≤
      (if s.ovf then 1 else 0) + if Cyc.ovfSet w then 1 else 0 := by
  have hovf := cycle_ovf h
  cases htick : ovfClr w s with
  | true =>
    obtain ⟨⟨hr, ha⟩, ho⟩ : (Cyc.rst w = false ∧ s.asleep = false) ∧ s.ovf = true := by simpa [ovfClr_eq] using htick
    have hown : t.ovf = Cyc.ovfSet w := by simpa [hr, ha] using hovf
    simp [ho, hown]
  | false =>
    have hsource : t.ovf = true → Cyc.ovfSet w = true ∨ s.ovf = true := by
      rw [hovf]
      simp only [Bool.and_eq_true, Bool.or_eq_true]
      exact fun ⟨_, hset⟩ => hset.imp_right And.right
    cases ht : t.ovf with
    | false => exact Nat.zero_le _
    | true => obtain hset | ho := hsource ht <;> simp [*]

/-- Settles O16: by induction over the words, each cycle keeping its account by `tick_add_pending_le`. -/
theorem ticksNeverExceedOverflows : Obligations.TicksNeverExceedOverflows := by
  intro ws
  induction ws with
  | nil => exact fun _ => Nat.zero_le _
  | cons w ws ih =>
    intro s
    obtain ⟨t, ht⟩ := cycle_completes w s
    have hcycle := tick_add_pending_le ht
    have hrest := ih t
    rw [ticksIn_cons ht, List.countP_cons]
    omega

/-! ## The pins after a TICK or WAKE (R63, R102, R118) -/

/-- The LED that DISPLAY lights, if any, by the cases of R102 in arithmetic. -/
def displayedLed (s : State) : Option Nibble :=
  if s.asleep then none
  else match s.state with
    | .init   => some s.cursor
    | .active => if s.idle % s.P.dispMod < s.P.dispTargetTicks then some s.target else some s.cursor
    | .fail   => if s.phase / 2 ^ s.P.failBlinkBit % 2 = 0 then some s.cursor else none
    | .win    =>
      if s.phase / 2 ^ s.P.winBlinkBit % 2 = 0
      then some (BitVec.ofNat 4 (s.phase / 2 ^ s.P.winSweepLsb % 16)) else none

theorem phaseBit_eq_false_iff (s : State) (n : Nat) : phaseBit s n = false ↔ s.phase / 2 ^ n % 2 = 0 := by
  rw [phaseBit, Nat.testBit_eq_decide_div_mod_eq, decide_eq_false_iff_not, Nat.mod_two_not_eq_one]

theorem winIndex_eq (s : State) : winIndex s = BitVec.ofNat 4 (s.phase / 2 ^ s.P.winSweepLsb % 16) := by
  apply BitVec.eq_of_toNat_eq
  simp [winIndex, Nat.shiftRight_eq_div_pow]

/-- DISPLAY's command is that of `displayedLed`: the bit tests and the slice of `phase` are its binary digits (R102). -/
theorem cmdIndex_display (s : State) : cmdIndex (display s) = displayedLed s := by
  unfold display displayedLed
  cases s.asleep with
  | true => exact cmdIndex_off
  | false =>
    cases s.state <;>
      simp only [Bool.false_eq_true, if_false, phaseBit_eq_false_iff, winIndex_eq, apply_ite cmdIndex, cmdIndex_set,
        cmdIndex_off]

/-- The LED write and the overflow latch change no register DISPLAY reads. -/
theorem displayedLed_latchOvf_ledWrite (o : Bool) (cmd : BitVec 5) (s : State) :
    displayedLed (latchOvf o (ledWrite cmd s)) = displayedLed s := by
  rw [ledWrite_frame]; rfl

/-- A cycle that ends with the LED write of DISPLAY and the latch shows what DISPLAY says of the state it ends in. -/
theorem pinsShow_displayedLed (o : Bool) (s : State) :
    PinsShow (displayedLed (latchOvf o (ledWrite (display s) s))) (latchOvf o (ledWrite (display s) s)) := by
  rw [displayedLed_latchOvf_ledWrite, ← cmdIndex_display]
  exact ledWrite_pins (display s) s

/-- Settles O20: TICK and WAKE both end with the LED write of DISPLAY, and `displayedLed` is the statement's own case
distinction. -/
theorem pinsShowTheDisplay : Obligations.PinsShowTheDisplay := by
  rintro s i (⟨o, b, r, rfl⟩ | ⟨o, r, rfl⟩)
  · exact ⟨_, exec_tick o b r s, pinsShow_displayedLed o (tickStepped (rawLevel b) r s)⟩
  · exact ⟨_, exec_wake o r s, pinsShow_displayedLed o (commitPrev (gameInit r { s with asleep := false }))⟩

end Sys2Proof.Machine
end

section
/-! PROOFS. The debouncer (42_debouncer.md R70 to R76). `ticksTo` is how far the count is from the rail of a level: a tick
of that level takes one off, a tick of the other level never does, and until it is 0 the filter keeps the level it has.
The statements about sequences of ticks are read off these facts, for both levels at once. -/

namespace Sys2Proof.Machine

open Sys2Proof

/-! ## The count and its distance to a rail (R70, R74) -/

theorem debounceCount_true (th c : Nat) : debounceCount th true c = if c < th then c + 1 else c := by
  simp [debounceCount]

theorem debounceCount_false (th c : Nat) : debounceCount th false c = c - 1 := by
  obtain ⟨h, -⟩ | ⟨-, -, e⟩ | ⟨e, -, hzero⟩ := debounceCount_cases th false c
  · cases h
  · exact e
  · rw [e, hzero rfl]

/-- Settles O22: R74 is the bound of the count alone. -/
theorem debounceKeepsTheBound : Obligations.DebounceKeepsTheBound :=
  fun _ b _ h => debounceCount_le b h

/-- The ticks of level `v` that bring the count `c` to the rail of `v`: `th` for pressed, 0 for released. -/
def ticksTo (th : Nat) (v : Bool) (c : Nat) : Nat := if v then th - c else c

@[simp] theorem ticksTo_true (th c : Nat) : ticksTo th true c = th - c := rfl
@[simp] theorem ticksTo_false (th c : Nat) : ticksTo th false c = c := rfl

/-- A tick of level `v` is one of the ticks to the rail of `v`. -/
theorem ticksTo_debounceCount_same (th : Nat) (v : Bool) (c : Nat) :
    ticksTo th v (debounceCount th v c) = ticksTo th v c - 1 := by
  cases v
  · exact debounceCount_false th c
  · rw [debounceCount_true, ticksTo_true, ticksTo_true]
    split <;> omega

/-- A tick of the other level brings the count no nearer to the rail of `v`. -/
theorem ticksTo_le_debounceCount_not (th : Nat) (v : Bool) (c : Nat) :
    ticksTo th v c ≤ ticksTo th v (debounceCount th (!v) c) := by
  cases v
  · rw [Bool.not_false, debounceCount_true, ticksTo_false, ticksTo_false]
    split <;> omega
  · rw [Bool.not_true, debounceCount_false, ticksTo_true, ticksTo_true]
    omega

theorem ticksTo_le {th c : Nat} (v : Bool) (h : c ≤ th) : ticksTo th v c ≤ th := by
  cases v
  · exact h
  · exact Nat.sub_le th c

/-- The two rails are `th` apart. -/
theorem ticksTo_not {th c : Nat} (v : Bool) (h : c ≤ th) : ticksTo th (!v) c = th - ticksTo th v c := by
  cases v
  · rfl
  · simp only [Bool.not_true, ticksTo_false, ticksTo_true]
    omega

/-- If the ticks of level `v` still to come are too few to reach its rail, they are so after the first of them too. -/
theorem count_lt_ticksTo_of_cons {th c : Nat} {v b : Bool} {bs : List Bool}
    (h : (b :: bs).count v < ticksTo th v c) : bs.count v < ticksTo th v (debounceCount th b c) := by
  obtain rfl | rfl : b = v ∨ b = !v := by cases b <;> cases v <;> simp
  · rw [List.count_cons_self] at h
    rw [ticksTo_debounceCount_same]
    omega
  · rw [List.count_cons_of_ne (by simp)] at h
    exact Nat.lt_of_lt_of_le h (ticksTo_le_debounceCount_not th v c)

/-! ## The filter in one tick (R70) -/

/-- Off the rail of the other level the filter keeps the level it has. -/
theorem debounce_filt_eq_of_pos {th : Nat} {v b : Bool} {btn : ButtonState} (hv : btn.filt = v)
    (h : 0 < ticksTo th (!v) (debounceCount th b btn.cnt)) : (btn.debounce th b).filt = v := by
  rw [debounce_filt, hv]
  cases v
  · have hne : debounceCount th b btn.cnt ≠ th := by
      simp only [Bool.not_false, ticksTo_true] at h
      omega
    simp [hne]
  · have hne : debounceCount th b btn.cnt ≠ 0 := Nat.ne_of_gt h
    simp [hne]

/-- A filter that takes the other level in a tick has the count at its rail. -/
theorem ticksTo_eq_zero_of_flip {th : Nat} {v b : Bool} {btn : ButtonState} (hv : btn.filt = !v)
    (h : (btn.debounce th b).filt = v) : ticksTo th v (debounceCount th b btn.cnt) = 0 := by
  by_contra hne
  have hkept := debounce_filt_eq_of_pos (th := th) (b := b) hv (by simpa using Nat.pos_of_ne_zero hne)
  simp [h] at hkept

/-- At the rail of a level the filter takes that level. -/
theorem debounce_filt_of_rail {th : Nat} {v b : Bool} {btn : ButtonState} (hth : 1 ≤ th) (hle : btn.cnt ≤ th)
    (h : ticksTo th v (debounceCount th b btn.cnt) = 0) : (btn.debounce th b).filt = v := by
  have hbound := debounceCount_le b hle
  rw [debounce_filt]
  cases v
  · have h0 : debounceCount th b btn.cnt = 0 := h
    rw [h0, if_neg (by omega), if_pos rfl]
  · rw [ticksTo_true] at h
    rw [if_pos (by omega)]

/-! ## Sequences of ticks (R70, R72) -/

@[simp] theorem buttonRun_nil (th : Nat) (btn : ButtonState) : buttonRun th btn [] = btn := rfl

@[simp] theorem buttonRun_cons (th : Nat) (btn : ButtonState) (b : Bool) (bs : List Bool) :
    buttonRun th btn (b :: bs) = buttonRun th (btn.debounce th b).commitPrev bs := rfl

theorem buttonRun_append (th : Nat) (btn : ButtonState) (bs cs : List Bool) :
    buttonRun th btn (bs ++ cs) = buttonRun th (buttonRun th btn bs) cs := List.foldl_append

theorem buttonRun_cnt_le {th : Nat} (bs : List Bool) : ∀ {btn : ButtonState}, btn.cnt ≤ th →
    (buttonRun th btn bs).cnt ≤ th := by
  induction bs with
  | nil => exact fun h => h
  | cons b bs ih => exact fun h => ih (debounceCount_le b h)

/-- R29 (i) over a sequence of ticks: each ends with the update of R72. -/
theorem buttonRun_prev {th : Nat} (bs : List Bool) : ∀ {btn : ButtonState}, btn.prev = btn.filt →
    (buttonRun th btn bs).prev = (buttonRun th btn bs).filt := by
  induction bs with
  | nil => exact fun h => h
  | cons b bs ih => exact fun _ => ih rfl

/-- The press event of a tick after others (R71): the filter with it against the filter before it. -/
theorem press_after_buttonRun {th : Nat} {btn : ButtonState} (h : btn.prev = btn.filt) (bs : List Bool) (b : Bool) :
    ((buttonRun th btn bs).debounce th b).press =
      ((buttonRun th btn (bs ++ [b])).filt && !(buttonRun th btn bs).filt) := by
  rw [ButtonState.press, debounce_prev, buttonRun_prev bs h, buttonRun_append]
  rfl

/-- The filter keeps its level through any sequence with too few ticks of the other level. -/
theorem buttonRun_filt_of_count_lt {th : Nat} {v : Bool} (bs : List Bool) : ∀ {btn : ButtonState}, btn.filt = v →
    bs.count (!v) < ticksTo th (!v) btn.cnt → (buttonRun th btn bs).filt = v := by
  induction bs with
  | nil => exact fun hv _ => hv
  | cons b bs ih =>
    intro btn hv h
    have hrest := count_lt_ticksTo_of_cons h
    exact ih (debounce_filt_eq_of_pos hv (Nat.zero_lt_of_lt hrest)) hrest

/-- A filter that ends at the other level has had the ticks to its rail. -/
theorem ticksTo_le_count_of_flip {th : Nat} {v : Bool} {btn : ButtonState} {bs : List Bool} (hv : btn.filt = !v)
    (h : (buttonRun th btn bs).filt = v) : ticksTo th v btn.cnt ≤ bs.count v := by
  by_contra hlt
  have hkept := buttonRun_filt_of_count_lt bs hv (by simpa using Nat.lt_of_not_le hlt)
  simp [h] at hkept

/-- A filter that ends at the other level was, at some tick, at that level with the count at its rail. -/
theorem exists_rail_of_flip {th : Nat} {v : Bool} (bs : List Bool) : ∀ {btn : ButtonState}, btn.filt = (!v) →
    (buttonRun th btn bs).filt = v → ∃ pre post, bs = pre ++ post ∧ (buttonRun th btn pre).filt = v ∧
      ticksTo th v (buttonRun th btn pre).cnt = 0 := by
  induction bs with
  | nil => exact fun hv h => absurd (h.symm.trans hv) (by simp)
  | cons b bs ih =>
    intro btn hv h
    by_cases hb : (btn.debounce th b).filt = v
    · exact ⟨[b], bs, rfl, hb, ticksTo_eq_zero_of_flip hv hb⟩
    · obtain ⟨pre, post, rfl, hrun⟩ := ih (btn := (btn.debounce th b).commitPrev) (Bool.eq_not_of_ne hb) h
      exact ⟨b :: pre, post, rfl, hrun⟩

/-! ## A steady level (R75, R76) -/

theorem ticksTo_buttonRun_replicate (th : Nat) (v : Bool) (n : Nat) : ∀ btn : ButtonState,
    ticksTo th v (buttonRun th btn (List.replicate n v)).cnt = ticksTo th v btn.cnt - n := by
  induction n with
  | zero => exact fun _ => rfl
  | succ n ih =>
    intro btn
    rw [List.replicate_succ, buttonRun_cons, ih, buttonCommit_cnt, debounce_cnt, ticksTo_debounceCount_same]
    omega

/-- A level that has had the ticks to its rail, and at least one, has the filter. -/
theorem buttonRun_replicate_filt {th n : Nat} {v : Bool} {btn : ButtonState} (hth : 1 ≤ th) (hle : btn.cnt ≤ th)
    (hn : 1 ≤ n) (h : ticksTo th v btn.cnt ≤ n) : (buttonRun th btn (List.replicate n v)).filt = v := by
  obtain ⟨m, rfl⟩ := Nat.exists_eq_add_of_le' hn
  have hrail := ticksTo_buttonRun_replicate th v (m + 1) btn
  rw [Nat.sub_eq_zero_of_le h, List.replicate_succ', buttonRun_append] at hrail
  rw [List.replicate_succ', buttonRun_append]
  exact debounce_filt_of_rail hth (buttonRun_cnt_le _ hle) hrail

/-- Settles O23: TH ticks reach the rail of the level from anywhere, and from there a single tick of the other level is
too few for TH ≥ 2. -/
theorem steadyLevelSettlesTheFilter : Obligations.SteadyLevelSettlesTheFilter := by
  intro th btn v hth hle
  have hfilt : (buttonRun th btn (List.replicate th v)).filt = v :=
    buttonRun_replicate_filt hth hle hth (ticksTo_le v hle)
  have hother : ticksTo th (!v) (buttonRun th btn (List.replicate th v)).cnt = th := by
    rw [ticksTo_not v (buttonRun_cnt_le _ hle), ticksTo_buttonRun_replicate,
      Nat.sub_eq_zero_of_le (ticksTo_le v hle), Nat.sub_zero]
  refine ⟨hfilt, fun h2 => ?_⟩
  rw [buttonRun_append, buttonRun_append]
  constructor <;>
    exact buttonRun_filt_of_count_lt _ hfilt (by rw [hother]; simp; omega)

/-- Settles O24: a flip of the filter needs the ticks to the rail, `th - cnt` for pressed and `cnt` for released. -/
theorem filterFlipsNeedEnoughTicks : Obligations.FilterFlipsNeedEnoughTicks :=
  fun _ _ _ _ _ => ⟨ticksTo_le_count_of_flip (v := true), ticksTo_le_count_of_flip (v := false)⟩

/-- From the fully released state a button held for `n` ticks reads pressed exactly when `n` has reached TH. -/
theorem held_filt {th : Nat} {btn : ButtonState} (hth : 1 ≤ th) (hcnt : btn.cnt = 0) (hfilt : btn.filt = false)
    (n : Nat) : (buttonRun th btn (List.replicate n true)).filt = decide (th ≤ n) := by
  by_cases hn : th ≤ n
  · rw [decide_eq_true hn]
    exact buttonRun_replicate_filt hth (by omega) (by omega) (by rw [ticksTo_true]; omega)
  · rw [decide_eq_false hn]
    refine buttonRun_filt_of_count_lt _ hfilt ?_
    rw [Bool.not_false, List.count_replicate_self, ticksTo_true]
    omega

/-- Settles O25: the filter rises when the ticks reach TH, and the press event is its rise. -/
theorem heldPressFiresInTickTH : Obligations.HeldPressFiresInTickTH := by
  intro th n btn hth hcnt hfilt hprev
  rw [press_after_buttonRun (hprev.trans hfilt.symm), ← List.replicate_succ', held_filt hth hcnt hfilt,
    held_filt hth hcnt hfilt, Bool.eq_iff_iff]
  simp
  omega

/-! ## Press events (R71, R76, R146) -/

/-- Settles O26: between two press events the filter falls, which takes TH released ticks from the count TH, and rises
again, which takes TH pressed ticks from the count 0. -/
theorem pressEventsAreSpaced : Obligations.PressEventsAreSpaced := by
  intro th btn b b' levels _ _ hprev hpress hshort
  obtain ⟨hrose, hwas⟩ : (btn.debounce th b).filt = true ∧ btn.filt = false := by
    simpa [ButtonState.press, hprev] using hpress
  have htop : th - debounceCount th b btn.cnt = 0 := ticksTo_eq_zero_of_flip hwas hrose
  rw [press_after_buttonRun rfl, ← Bool.not_eq_true, Bool.and_eq_true, Bool.not_eq_true']
  rintro ⟨hagain, hfell⟩
  obtain ⟨pre, post, rfl, hlow, hzero⟩ := exists_rail_of_flip levels hrose hfell
  rw [List.append_assoc, buttonRun_append] at hagain
  have hdown : debounceCount th b btn.cnt ≤ pre.count false :=
    ticksTo_le_count_of_flip (v := false) (btn := (btn.debounce th b).commitPrev) hrose hlow
  have hup := ticksTo_le_count_of_flip (v := true) hlow hagain
  rw [ticksTo_false] at hzero
  rw [ticksTo_true, hzero] at hup
  have hpre := pre.count_le_length (a := false)
  have hpost := (post ++ [b']).count_le_length (a := true)
  rw [List.length_append] at hshort
  rw [List.length_append, List.length_singleton] at hpost
  omega

/-- Too few ticks of the other level give no press event: the filter keeps the level that `prev` has. -/
theorem noPress_of_count_lt {th : Nat} {v : Bool} (bs : List Bool) : ∀ {btn : ButtonState}, btn.filt = v →
    btn.prev = v → bs.count (!v) < ticksTo th (!v) btn.cnt → noPress th btn bs = true := by
  induction bs with
  | nil => exact fun _ _ _ => rfl
  | cons b bs ih =>
    intro btn hv hprev h
    have hrest := count_lt_ticksTo_of_cons h
    have hkept : (btn.debounce th b).filt = v := debounce_filt_eq_of_pos hv (Nat.zero_lt_of_lt hrest)
    have hpress : (btn.debounce th b).press = false := by simp [ButtonState.press, hkept, hprev]
    rw [noPress, hpress, ih (btn := (btn.debounce th b).commitPrev) hkept hkept hrest]
    rfl

/-- Settles O50: each clause is `noPress_of_count_lt` at its level. -/
theorem quietButtonHasNoPress : Obligations.QuietButtonHasNoPress :=
  fun _ _ levels _ _ hprev =>
    ⟨fun h => noPress_of_count_lt levels h (hprev.trans h), fun h => noPress_of_count_lt levels h (hprev.trans h)⟩

/-! ## The ButtonState a TICK leaves (R63, R70, R72, R92) -/

@[simp] theorem ledWrite_btn (cmd : BitVec 5) (s : State) : (ledWrite cmd s).btn = s.btn := by rw [ledWrite_eq]; rfl

@[simp] theorem ledWrite_state (cmd : BitVec 5) (s : State) : (ledWrite cmd s).state = s.state := by
  rw [ledWrite_eq]; rfl

/-- STEP.ACTIVE does not touch the button (R95). -/
theorem stepActive_btn (p : Bool) (r : Nibble) {s : State} (hs : s.state = .active) :
    (stepActive p r s).btn = s.btn := by
  obtain ⟨_, _, -, hm⟩ := activeMove_activeCount s
  have hcases := stepActive_cases p r hs
  simp only [hm] at hcases
  obtain ⟨-, -, e⟩ | ⟨-, -, e⟩ | ⟨-, -, -, e⟩ | ⟨-, -, -, e⟩ | ⟨-, -, e⟩ := hcases <;> rw [e]

/-- The tick ends Fail or Win, by the states before and after it: its step runs GAME_INIT (R100, R101). -/
def EndsGame (s t : State) : Prop := (s.state = .fail ∨ s.state = .win) ∧ t.state = .init

/-- A step operation clears the button where it runs GAME_INIT and touches it nowhere else (R92 to R101). -/
theorem gameStep_btn (p : Bool) (r : Nibble) (s : State) :
    (EndsGame s (gameStep p r s) ∧ (gameStep p r s).btn = ButtonState.cleared) ∨
    (¬ EndsGame s (gameStep p r s) ∧ (gameStep p r s).btn = s.btn) := by
  unfold gameStep
  cases hs : s.state with
  | init =>
    obtain ⟨-, e⟩ | ⟨-, -, e⟩ | ⟨-, -, -, e⟩ | ⟨-, -, -, e⟩ := stepInit_cases r s <;> simp [EndsGame, hs, e]
  | active => simp [EndsGame, hs, stepActive_btn p r hs]
  | fail => obtain ⟨-, e⟩ | ⟨-, e⟩ := stepFail_cases r s <;> simp [EndsGame, hs, e]
  | win => obtain ⟨-, e⟩ | ⟨-, e⟩ := stepWin_cases r s <;> simp [EndsGame, hs, e]

/-- A TICK clears the button where it ends Fail or Win, and else leaves it debounced and committed (R63). -/
theorem tick_btn (b : Bool) (r : Nibble) (s : State) :
    (EndsGame s (tick b r s) ∧ (tick b r s).btn = ButtonState.cleared) ∨
    (¬ EndsGame s (tick b r s) ∧ (tick b r s).btn = (s.btn.debounce s.P.th b).commitPrev) := by
  have hbtn : (tick b r s).btn = (gameStep (tickStart b s).btn.press r (tickStart b s)).btn.commitPrev := by
    rw [tick_eq, ledWrite_btn]; rfl
  have hstate : (tick b r s).state = (gameStep (tickStart b s).btn.press r (tickStart b s)).state := by
    rw [tick_eq, ledWrite_state]; rfl
  rw [EndsGame, hbtn, hstate]
  obtain ⟨hends, e⟩ | ⟨hends, e⟩ := gameStep_btn (tickStart b s).btn.press r (tickStart b s)
  · exact .inl ⟨hends, by rw [e]; rfl⟩
  · exact .inr ⟨hends, by rw [e]; rfl⟩

/-- Settles O21: `tick_btn` gives the two clauses, and the equations of the count and the level their cases. -/
theorem tickUpdatesTheButton : Obligations.TickUpdatesTheButton := by
  intro o btnN r s
  refine ⟨_, exec_tick o btnN r s, ?_⟩
  rw [latchOvf_state, latchOvf_btn]
  obtain ⟨hends, e⟩ | ⟨hends, e⟩ := tick_btn (rawLevel btnN) r s
  · exact ⟨fun _ => by simp [e, ButtonState.cleared], fun h => absurd hends h⟩
  · refine ⟨fun h => absurd h hends, fun _ => ?_⟩
    rw [e]
    refine ⟨rfl, ?_, ?_, ?_, ?_, ?_, ?_, rfl⟩
    · rintro rfl hlt
      exact (debounceCount_true _ _).trans (if_pos hlt)
    · rintro rfl hge
      exact (debounceCount_true _ _).trans (if_neg (Nat.not_lt.2 hge))
    · rintro rfl
      exact debounceCount_false s.P.th s.btn.cnt
    · exact fun htop => if_pos htop
    · exact fun htop hzero => (if_neg htop).trans (if_pos hzero)
    · exact fun htop hzero => (if_neg htop).trans (if_neg hzero)

end Sys2Proof.Machine
end

section
/-! PROOFS. The LED Driver (43_led_driver.md R80 to R84): the bytes LED.SET and LED.OFF write, and what the laws of the
LED write say of the pins they leave. -/

namespace Sys2Proof.Machine

open Sys2Proof

/-! ## The bytes of the two commands (R80, R81) -/

/-- MUX_MASK covers the bit of every multiplexed pin (R80). -/
theorem bitByte_and_muxMask (I : Instance) {k : Nat} (hk : k < I.params.nMux) :
    bitByte (muxBitOf I.params k) &&& muxMask I.params = bitByte (muxBitOf I.params k) := by
  refine BitVec.eq_of_getLsbD_eq fun n _ => ?_
  rw [BitVec.getLsbD_and, bitByte_getLsbD, muxMask_bit]
  by_cases hn : n = muxBitOf I.params k
  · simp [hn, muxBitOf_mem I hk]
  · simp [hn]

theorem drvByte_and_muxMask (I : Instance) (i : Nibble) :
    drvByte I.params i &&& muxMask I.params = drvByte I.params i :=
  bitByte_and_muxMask I (tableRead_wf I i).1

theorem snkByte_and_muxMask (I : Instance) (i : Nibble) :
    snkByte I.params i &&& muxMask I.params = snkByte I.params i :=
  bitByte_and_muxMask I (tableRead_wf I i).2.1

/-- R80: the mask cuts nothing off DRV and SNK, so LED.SET ors them in whole. -/
theorem ledSet_eq (i : Nibble) (s : State) :
    ledSet i s = { s with
      ddr  := (s.ddr &&& ~~~muxMask s.P) ||| drvByte s.P i ||| snkByte s.P i
      port := (s.port &&& ~~~muxMask s.P) ||| drvByte s.P i } := by
  rw [ledSet, portWriteMasked, BitVec.and_or_distrib_right, drvByte_and_muxMask, snkByte_and_muxMask, BitVec.or_assoc]

/-- R81: LED.OFF ors in nothing. -/
theorem ledOff_eq (s : State) :
    ledOff s = { s with ddr := s.ddr &&& ~~~muxMask s.P, port := s.port &&& ~~~muxMask s.P } := by
  simp [ledOff, portWriteMasked]

/-- A byte already written under a mask is not changed by the same write (R33). -/
theorem masked_idem (x v m : Byte) :
    (((x &&& ~~~m) ||| (v &&& m)) &&& ~~~m) ||| (v &&& m) = (x &&& ~~~m) ||| (v &&& m) := by
  refine BitVec.eq_of_getLsbD_eq fun n _ => ?_
  simp only [masked_getLsbD]
  split <;> rfl

/-- R80: the same LED.SET again changes nothing. -/
theorem ledSet_idem (i : Nibble) (s : State) : ledSet i (ledSet i s) = ledSet i s := by
  simp [ledSet, portWriteMasked, masked_idem]

/-! ## The pins they leave (R80, R81, R83, R84) -/

theorem ledSet_pins (i : Nibble) (s : State) : PinsShow (some i) (ledSet i s) := by
  simpa [ledSet_eq_ledWrite] using ledWrite_pins (Led.set i) s

theorem ledOff_pins (s : State) : PinsShow none (ledOff s) := by
  simpa [ledOff_eq_ledWrite] using ledWrite_pins Led.off s

theorem ledSet_other (i : Nibble) (s : State) : OtherPinsKept s (ledSet i s) :=
  ledSet_eq_ledWrite i s ▸ ledWrite_other (Led.set i) s

theorem ledOff_other (s : State) : OtherPinsKept s (ledOff s) :=
  ledOff_eq_ledWrite s ▸ ledWrite_other Led.off s

/-- Under INJ_TABLE exactly the shown LED is lit (R84). -/
theorem PinsShow.lit_eq_singleton {s : State} {i : Nibble} (h : PinsShow (some i) s) (hinj : s.P.injTable = true) :
    lit s.P s.ddr s.port = [i] := by
  have hmem : ∀ j, j ∈ lit s.P s.ddr s.port ↔ j ∈ [i] := fun j => by
    rw [h.mem_lit_iff, List.mem_singleton]
    exact ⟨tableRead_inj hinj, fun hj => hj ▸ rfl⟩
  exact List.perm_singleton.1 ((List.perm_ext_iff_of_nodup (lit_nodup _ _ _) (List.nodup_singleton i)).2 hmem)

/-! ## The statements -/

/-- Settles O27: `ledSet_eq` gives the bytes, the laws of the LED write the pins; the mask's bits are a law of the model,
and the example is `ledSet_eq` at REF. -/
theorem ledSetDrivesItsTwoPins : Obligations.LedSetDrivesItsTwoPins := by
  refine ⟨fun i s => ?_, muxMask_getLsbD, fun s href hddr hport => ?_⟩
  · exact ⟨ledSet i s, exec_ledSet i s, ledSet_eq i s, ledSet_pins i s, ledSet_other i s,
      (exec_ledSet i _).trans (congrArg _ (ledSet_idem i s))⟩
  · rw [exec_ledSet, ledSet_eq, State.P_eq, href, hddr, hport]
    rfl

/-- Settles O28: as for LED.SET, with `ledOff_eq`. -/
theorem ledOffReleasesAllPins : Obligations.LedOffReleasesAllPins := by
  refine ⟨fun s => ⟨ledOff s, exec_ledOff s, ledOff_eq s, ledOff_pins s, ledOff_other s⟩, fun s href hddr hport => ?_⟩
  rw [exec_ledOff, ledOff_eq, State.P_eq, href, hddr, hport]
  rfl

/-- Settles O29: every command word is an LED write, whose mask spares the pins outside MUX_BIT, the button's among
them. -/
theorem buttonPinNeverDisturbed : Obligations.ButtonPinNeverDisturbed := by
  refine ⟨fun cmd s => ?_, fun s href hddr hport => ?_⟩
  · have hkept := ledWrite_other cmd s
    obtain ⟨-, -, -, -, hbtn⟩ := s.inst.pins
    obtain ⟨hddr, hport⟩ := hkept _ hbtn
    exact ⟨ledWrite cmd s, exec_decodeLed cmd s, hddr, hport, hkept⟩
  · rw [exec_ledSet, ledSet_eq, State.P_eq, href, hddr, hport]
    rfl

/-- Settles O30: what the pins after LED.SET and LED.OFF show, read by the observer. -/
theorem exactlyTheAddressedLedIsLit : Obligations.ExactlyTheAddressedLedIsLit := by
  intro i s
  have hshow := ledSet_pins i s
  obtain ⟨hd, hk, hne⟩ := tableRead_wf s.inst i
  refine ⟨⟨ledSet i s, exec_ledSet i s, ⟨_, _, hd, hk, hne, rfl, rfl, ?_, ?_, ?_⟩, ?_, ?_⟩,
    ledOff s, exec_ledOff s, (ledOff_pins s).lit_none⟩
  · exact (hshow.outputHigh_iff hd).2 rfl
  · exact (hshow.outputLow_iff hk).2 rfl
  · exact fun _ hl hld hlk => hshow.highZ hl hld hlk
  · exact hshow.lit_eq_singleton
  · exact hshow.mem_lit_iff

end Sys2Proof.Machine
end

section
/-! PROOFS. The Game State Machine of one step (44_game_fsm.md R90 to R104): NEXT and PERIOD in arithmetic, the result
of each step operation with its frame, and what the draw decides. -/

namespace Sys2Proof.Machine

open Sys2Proof

/-! ## NEXT and PERIOD (R90, R91) -/

/-- Settles O31: forward adds 1 and backward adds 15, modulo 16. -/
theorem nextIsTheNeighbourOnTheRing : Obligations.NextIsTheNeighbourOnTheRing := by
  refine ⟨fun c => ⟨?_, ?_⟩, rfl, rfl, rfl⟩
  · rw [nextPos, if_pos rfl, BitVec.toNat_add]
    rfl
  · rw [nextPos, if_neg nofun, BitVec.toNat_sub, Nat.add_comm]
    rfl

theorem minPeriod_le_period (I : Instance) (g : Nat) : I.params.minPeriod ≤ period I.params g := by
  have hle := I.period_bounds.2
  unfold period
  dsimp only
  split <;> omega

/-- R91 over the integers: the clamp before the subtraction is the maximum after it. -/
theorem period_eq_max (I : Instance) (g : Nat) :
    (period I.params g : Int) =
      max (I.params.minPeriod : Int) ((I.params.basePeriod : Int) - (g : Int) * (I.params.stepPerStage : Int)) := by
  have hle := I.period_bounds.2
  rw [← Int.natCast_mul]
  unfold period
  dsimp only
  split <;> omega

/-- From the twelfth stage on the REF period is clamped (R91). -/
theorem period_ref_of_ge {g : Nat} (h : 12 ≤ g) : period Params.ref g = 10 := by
  have hdec : 100 - 10 ≤ g * 8 := by omega
  exact if_pos hdec

/-- Settles O32: the maximum, its two bounds, and the rule's values by computation. -/
theorem periodIsTheClampedMaximum : Obligations.PeriodIsTheClampedMaximum := by
  refine ⟨fun I g => ⟨period_eq_max I g, minPeriod_le_period I g, period_le_basePeriod I g, ?_⟩, by decide,
    fun _ => period_ref_of_ge, rfl, rfl, rfl⟩
  exact Nat.le_trans I.period_bounds.1 (minPeriod_le_period I g)

/-! ## STEP.INIT (R94) -/

/-- Settles O33: each course of STEP.INIT is one clause, and its conditions deny those of the others. -/
theorem stepInitResult : Obligations.StepInitResult := by
  intro s r moved
  rw [exec_stepInit]
  obtain ⟨hle, e⟩ | ⟨hlt, hm, e⟩ | ⟨hlt, hm, hp, e⟩ | ⟨hlt, hm, hp, e⟩ := stepInit_cases r s
  · have hno := Nat.not_lt.2 hle
    exact ⟨fun _ => congrArg _ e, fun h => absurd h hno, fun h => absurd h hno, fun h => absurd h hno⟩
  all_goals refine ⟨fun hle => absurd hlt (Nat.not_lt.2 hle), ?_⟩
  · exact ⟨fun _ _ => congrArg _ e, fun _ h => absurd h hm, fun _ h => absurd h hm⟩
  · exact ⟨fun _ h => absurd hm h, fun _ _ _ => congrArg _ e, fun _ _ h => absurd h (Nat.not_lt.2 hp)⟩
  · exact ⟨fun _ h => absurd hm h, fun _ _ h => absurd hp (Nat.not_lt.2 h), fun _ _ _ => congrArg _ e⟩

/-! ## STEP.ACTIVE (R95 to R99) -/

/-- The cursor after ACTIVE.MOVE (R97), on which a press is judged. -/
def movedCursor (s : State) : Nibble :=
  if decide (period s.P s.stage < s.phase + 1) then nextPos s.cursor s.dir else s.cursor

/-- The phase after ACTIVE.MOVE (R97). -/
def movedPhase (s : State) : Nat :=
  if decide (period s.P s.stage < s.phase + 1) then 0 else s.phase + 1

/-- ACTIVE.COUNT and ACTIVE.MOVE together (R96, R97). -/
theorem activeMove_activeCount_eq (s : State) :
    activeMove (activeCount s) =
      { s with idle := s.idle + 1, phase := movedPhase s, cursor := movedCursor s } := by
  unfold movedPhase movedCursor
  obtain ⟨hle, e⟩ | ⟨hlt, e⟩ := activeMove_cases (activeCount s)
  · have hstay : ¬ period s.P s.stage < s.phase + 1 := Nat.not_lt.2 hle
    rw [e, decide_eq_false hstay]
    rfl
  · have hmove : period s.P s.stage < s.phase + 1 := hlt
    rw [e, decide_eq_true hmove]
    rfl

/-- The five courses of STEP.ACTIVE written out: it waits, falls asleep, hits and stays, hits and wins, or misses (R95
to R99). -/
theorem stepActive_courses (p : Bool) (r : Nibble) {s : State} (hs : s.state = .active) :
    (p = false ∧ s.idle + 1 ≤ s.P.idleTimeout ∧ stepActive p r s =
      { s with idle := s.idle + 1, phase := movedPhase s, cursor := movedCursor s }) ∨
    (p = false ∧ s.P.idleTimeout < s.idle + 1 ∧ stepActive p r s =
      { s with idle := s.idle + 1, phase := movedPhase s, cursor := movedCursor s, asleep := true }) ∨
    (p = true ∧ movedCursor s = s.target ∧ s.stage + 1 ≤ s.P.maxStage ∧ stepActive p r s =
      { s with
        cursor := movedCursor s, phase := movedPhase s, idle := 0, dir := !s.dir, target := r
        stage := s.stage + 1 }) ∨
    (p = true ∧ movedCursor s = s.target ∧ s.P.maxStage < s.stage + 1 ∧ stepActive p r s =
      { s with
        cursor := movedCursor s, phase := 0, idle := 0, dir := !s.dir, target := r, stage := s.stage + 1
        state := .win }) ∨
    (p = true ∧ movedCursor s ≠ s.target ∧ stepActive p r s =
      { s with cursor := movedCursor s, phase := 0, idle := s.idle + 1, state := .fail }) := by
  have h := stepActive_cases p r hs
  rw [activeMove_activeCount_eq] at h
  exact h

/-- Settles O34: without a press STEP.ACTIVE waits or falls asleep. -/
theorem stepActiveWithoutPress : Obligations.StepActiveWithoutPress := by
  intro s r hs moves t
  rw [exec_stepActive]
  obtain ⟨-, hle, e⟩ | ⟨-, hlt, e⟩ | ⟨hp, -⟩ | ⟨hp, -⟩ | ⟨hp, -⟩ := stepActive_courses false r hs
  · exact ⟨fun _ => congrArg _ e, fun hlt => absurd hlt (Nat.not_lt.2 hle)⟩
  · exact ⟨fun hle => absurd hlt (Nat.not_lt.2 hle), fun _ => congrArg _ e⟩
  all_goals cases hp

/-- Settles O35: with a press STEP.ACTIVE hits and stays, hits and wins, or misses. -/
theorem stepActiveWithPress : Obligations.StepActiveWithPress := by
  intro s r hs moves cursor phase
  rw [exec_stepActive]
  obtain ⟨hp, -⟩ | ⟨hp, -⟩ | ⟨-, hhit, hle, e⟩ | ⟨-, hhit, hlt, e⟩ | ⟨-, hmiss, e⟩ := stepActive_courses true r hs
  · cases hp
  · cases hp
  · exact ⟨fun _ _ => congrArg _ e, fun _ hlt => absurd hlt (Nat.not_lt.2 hle), fun hmiss => absurd hhit hmiss⟩
  · exact ⟨fun _ hle => absurd hlt (Nat.not_lt.2 hle), fun _ _ => congrArg _ e, fun hmiss => absurd hhit hmiss⟩
  · exact ⟨fun hhit => absurd hhit hmiss, fun hhit => absurd hhit hmiss, fun _ => congrArg _ e⟩

/-! ## STEP.FAIL and STEP.WIN (R92, R100, R101) -/

/-- A count up to a duration or past it, as two clauses. -/
theorem clauses_of_le_or_lt {n d : Nat} {p q : Prop} (h : (n ≤ d ∧ p) ∨ (d < n ∧ q)) : (n ≤ d → p) ∧ (d < n → q) := by
  obtain ⟨hle, hp⟩ | ⟨hlt, hq⟩ := h
  · exact ⟨fun _ => hp, fun hlt => absurd hlt (Nat.not_lt.2 hle)⟩
  · exact ⟨fun hle => absurd hlt (Nat.not_lt.2 hle), fun _ => hq⟩

/-- Settles O36: both count up to their duration, and what they run past it is GAME_INIT. -/
theorem stepFailAndWinResult : Obligations.StepFailAndWinResult := by
  intro s r restarted
  obtain ⟨hfail, hfailEnd⟩ := clauses_of_le_or_lt (stepFail_cases r s)
  obtain ⟨hwin, hwinEnd⟩ := clauses_of_le_or_lt (stepWin_cases r s)
  exact ⟨fun h => congrArg _ (hfail h), fun h => congrArg _ (hfailEnd h), fun h => congrArg _ (hwin h),
    fun h => congrArg _ (hwinEnd h)⟩

/-! ## The draw (R104) -/

/-- A state of which a draw decides nothing but the target: with another draw it is the same, or the same but for
`target`, which is then the draw. -/
def DrawOnlyTarget (f : Nibble → State) : Prop :=
  ∀ r r', f r' = f r ∨ ((f r).target = r ∧ f r' = { f r with target := r' })

theorem DrawOnlyTarget.const (s : State) : DrawOnlyTarget fun _ => s := fun _ _ => .inl rfl

/-- An operation that writes its draw to `target` and nowhere else. -/
theorem DrawOnlyTarget.of_eq {f : Nibble → State} (h : ∀ r, f r = { f 0 with target := r }) : DrawOnlyTarget f :=
  fun r r' => .inr (by rw [h r, h r']; exact ⟨rfl, rfl⟩)

theorem DrawOnlyTarget.ite {c : Prop} [Decidable c] {f g : Nibble → State} (hf : DrawOnlyTarget f)
    (hg : DrawOnlyTarget g) : DrawOnlyTarget fun r => if c then f r else g r := by
  by_cases h : c
  · simpa only [if_pos h] using hf
  · simpa only [if_neg h] using hg

theorem stepInit_drawOnlyTarget (s : State) : DrawOnlyTarget fun r => stepInit r s := by
  unfold stepInit
  exact .ite (.ite (.ite (.of_eq fun _ => rfl) (.const _)) (.const _)) (.const _)

theorem activePress_drawOnlyTarget (s : State) : DrawOnlyTarget fun r => activePress r s := by
  unfold activePress
  exact .ite (.ite (c := s.P.maxStage < s.stage + 1) (.of_eq fun _ => rfl) (.of_eq fun _ => rfl)) (.const _)

@[simp] theorem activeTimeout_target (s : State) : (activeTimeout s).target = s.target := by
  unfold activeTimeout
  split <;> rfl

/-- ACTIVE.TIMEOUT does not read the target (R99). -/
theorem activeTimeout_withTarget (s : State) (r : Nibble) :
    activeTimeout { s with target := r } = { activeTimeout s with target := r } := by
  unfold activeTimeout
  split <;> rfl

theorem DrawOnlyTarget.activeTimeout {f : Nibble → State} (hf : DrawOnlyTarget f) :
    DrawOnlyTarget fun r => activeTimeout (f r) := fun r r' =>
  (hf r r').imp (congrArg _) fun ⟨ht, e⟩ =>
    ⟨(activeTimeout_target _).trans ht, (congrArg _ e).trans (activeTimeout_withTarget _ r')⟩

theorem stepActive_drawOnlyTarget (p : Bool) (s : State) : DrawOnlyTarget fun r => stepActive p r s := by
  cases p
  · exact .const (activeTimeout (activeMove (activeCount s)))
  · exact (activePress_drawOnlyTarget (activeMove (activeCount s))).activeTimeout

/-- The draw of WAKE goes to the target by GAME_INIT; its display is the cursor's LED (R118). -/
theorem wake_drawOnlyTarget (o : Bool) (s : State) : DrawOnlyTarget fun r => latchOvf o (wake r s) := by
  refine .of_eq fun r => ?_
  rw [wake_eq, wake_eq, ledWrite_eq, ledWrite_eq]
  rfl

/-- Settles O39: one lemma per operation; STEP.FAIL, STEP.WIN and RESET draw by GAME_INIT alone. -/
theorem drawOnlyChoosesTheTarget : Obligations.DrawOnlyChoosesTheTarget := by
  intro s r r' p o i hi
  have ofState : ∀ f : Nibble → State, DrawOnlyTarget f → (∀ r, exec (i r) s = .next (f r)) →
      ∃ t, exec (i r) s = .next t ∧
        (exec (i r') s = .next t ∨ (t.target = r ∧ exec (i r') s = .next { t with target := r' })) :=
    fun f hf he => ⟨f r, he r, (hf r r').imp (fun e => (he r').trans (congrArg _ e))
      fun ⟨ht, e⟩ => ⟨ht, (he r').trans (congrArg _ e)⟩⟩
  obtain rfl | rfl | rfl | rfl | rfl | rfl := hi
  · exact ofState _ (stepInit_drawOnlyTarget s) (exec_stepInit · s)
  · exact ofState _ (stepActive_drawOnlyTarget p s) (exec_stepActive p · s)
  · exact ofState _ (.ite (.of_eq fun _ => rfl) (.const _)) (exec_stepFail · s)
  · exact ofState _ (.ite (.of_eq fun _ => rfl) (.const _)) (exec_stepWin · s)
  · exact ofState _ (.of_eq fun _ => rfl) (exec_reset · s)
  · exact ofState _ (wake_drawOnlyTarget o s) (exec_wake o · s)

end Sys2Proof.Machine
end

section
/-! PROOFS. The Game State Machine over one cycle (44_game_fsm.md R103, R105): what a TICK leaves is what its step
operation leaves, but for the button, the port and the overflow flag; so the courses of the step operations are the
rows of the transition table. -/

namespace Sys2Proof.Machine

open Sys2Proof

/-! ## The step operation of a TICK (R63, R93) -/

theorem gameStep_init {s : State} (hs : s.state = .init) (p : Bool) (r : Nibble) :
    gameStep p r s = stepInit r s := by rw [gameStep, hs]

theorem gameStep_active {s : State} (hs : s.state = .active) (p : Bool) (r : Nibble) :
    gameStep p r s = stepActive p r s := by rw [gameStep, hs]

theorem gameStep_fail {s : State} (hs : s.state = .fail) (p : Bool) (r : Nibble) :
    gameStep p r s = stepFail r s := by rw [gameStep, hs]

theorem gameStep_win {s : State} (hs : s.state = .win) (p : Bool) (r : Nibble) :
    gameStep p r s = stepWin r s := by rw [gameStep, hs]

/-- The state that the step operation of a TICK leaves (R63). -/
def tickGame (b : Bool) (r : Nibble) (s : State) : State :=
  gameStep (tickStart b s).btn.press r (tickStart b s)

/-- After its step operation a TICK writes `btn.prev`, the port and the overflow flag, and nothing else (R63). -/
theorem cycle_tick_eq {w : Byte} {s t : State} (h : cycle w s = .next t) (hr : Cyc.rst w = false)
    (ha : s.asleep = false) (ho : s.ovf = true) : ∃ btn ddr port,
      t = { tickGame (!Cyc.btnN w) (Cyc.rnd w) s with
        btn := btn, ddr := ddr, port := port, ovf := Cyc.ovfSet w } := by
  refine ⟨t.btn, t.ddr, t.port, ?_⟩
  rw [← Host.Outcome.next.inj ((cycle_tick hr ha ho).symm.trans h), latchOvf, tick_ovf, Bool.false_or, tick_eq,
    ledWrite_eq]
  rfl

/-! ## The transition table (R103) -/

/-- WAKE leaves an awake block in Init with the drawn target (R118). -/
theorem wake_restarts (r : Nibble) (s : State) :
    (wake r s).state = .init ∧ (wake r s).asleep = false ∧ (wake r s).target = r := by
  rw [wake_eq, ledWrite_eq]
  exact ⟨rfl, rfl, rfl⟩

/-- Settles O37: RESET and WAKE are a row each, HOLD and IDLE change nothing, and each course of a TICK's step
operation that changes the state or falls asleep is a row. -/
theorem transitionTableIsComplete : Obligations.TransitionTableIsComplete := by
  intro w s t ht btn press moved ticks
  obtain ⟨hr, e⟩ | ⟨hr, ha, hw, e⟩ | ⟨-, -, -, e⟩ | ⟨hr, ha, ho, -⟩ | ⟨-, -, -, e⟩ := cycle_cases w s
  · obtain rfl := Host.Outcome.next.inj (e.symm.trans ht)
    exact .inr (.inl ⟨hr, rfl, rfl⟩)
  · obtain rfl := Host.Outcome.next.inj (e.symm.trans ht)
    exact .inr (.inr (.inr (.inr (.inr (.inr (.inl
      ⟨hr, ha, fun hinv => (hinv.asleep_off ha).1, hw, wake_restarts (Cyc.rnd w) s⟩))))))
  · obtain rfl := Host.Outcome.next.inj (e.symm.trans ht)
    exact .inl ⟨rfl, rfl⟩
  · have hticks : ticks := ⟨hr, ha, ho⟩
    obtain ⟨btn', ddr, port, rfl⟩ := cycle_tick_eq ht hr ha ho
    have hstart : (tickStart (!Cyc.btnN w) s).state = s.state := rfl
    unfold tickGame
    cases hs : s.state with
    | init =>
      rw [gameStep_init (hstart.trans hs)]
      obtain ⟨-, e⟩ | ⟨-, -, e⟩ | ⟨-, -, -, e⟩ | ⟨hlt, hland, hpass, e⟩ :=
        stepInit_cases (Cyc.rnd w) (tickStart (!Cyc.btnN w) s) <;> rw [e]
      · exact .inl ⟨hs, rfl⟩
      · exact .inl ⟨hs, rfl⟩
      · exact .inl ⟨hs, rfl⟩
      · exact .inr (.inr (.inl ⟨hticks, rfl, rfl, ha, hlt, hland, hpass, rfl, rfl, rfl, rfl⟩))
    | active =>
      rw [gameStep_active (hstart.trans hs)]
      obtain ⟨-, -, e⟩ | ⟨hp, hlt, e⟩ | ⟨-, -, -, e⟩ | ⟨hp, hhit, hlt, e⟩ | ⟨hp, hmiss, e⟩ :=
        stepActive_courses _ (Cyc.rnd w) (hstart.trans hs) <;> rw [e]
      · exact .inl ⟨hs, rfl⟩
      · exact .inr (.inr (.inr (.inr (.inr (.inl ⟨hticks, rfl, hs, rfl, hp, hlt⟩)))))
      · exact .inl ⟨hs, rfl⟩
      · exact .inr (.inr (.inr (.inl ⟨hticks, rfl, rfl, ha, hp, hhit, hlt, rfl, rfl, rfl, rfl, rfl⟩)))
      · exact .inr (.inr (.inr (.inr (.inl ⟨hticks, rfl, rfl, ha, hp, hmiss, rfl⟩))))
    | fail =>
      rw [gameStep_fail (hstart.trans hs)]
      obtain ⟨-, e⟩ | ⟨hlt, e⟩ := stepFail_cases (Cyc.rnd w) (tickStart (!Cyc.btnN w) s) <;> rw [e]
      · exact .inl ⟨hs, rfl⟩
      · exact .inr (.inr (.inr (.inr (.inr (.inr (.inr (.inl ⟨hticks, rfl, rfl, ha, hlt, rfl⟩)))))))
    | win =>
      rw [gameStep_win (hstart.trans hs)]
      obtain ⟨-, e⟩ | ⟨hlt, e⟩ := stepWin_cases (Cyc.rnd w) (tickStart (!Cyc.btnN w) s) <;> rw [e]
      · exact .inl ⟨hs, rfl⟩
      · exact .inr (.inr (.inr (.inr (.inr (.inr (.inr (.inr ⟨hticks, rfl, rfl, ha, hlt, rfl⟩)))))))
  · obtain rfl := Host.Outcome.next.inj (e.symm.trans ht)
    exact .inl ⟨rfl, rfl⟩

/-! ## The stage (R105) -/

/-- A hit (R98) by its effects, with the draw `r`: one stage more, the idle count cleared, the direction flipped, a
new target; it stays in Active or wins. -/
def Hits (r : Nibble) (s t : State) : Prop :=
  s.state = .active ∧ s.asleep = false ∧ (t.state = .active ∨ t.state = .win) ∧ t.stage = s.stage + 1 ∧
    t.idle = 0 ∧ t.dir = (!s.dir) ∧ t.target = r

/-- What may happen to the stage: kept, cleared on the way into or out of Init, or raised by a hit. -/
def StageRule (r : Nibble) (s t : State) : Prop :=
  t.stage = s.stage ∨ (t.stage = 0 ∧ (s.state = .init ∨ t.state = .init)) ∨ Hits r s t

theorem gameStep_stageRule {s : State} (ha : s.asleep = false) (p : Bool) (r : Nibble) :
    StageRule r s (gameStep p r s) := by
  cases hs : s.state with
  | init =>
    rw [gameStep_init hs]
    obtain ⟨-, e⟩ | ⟨-, -, e⟩ | ⟨-, -, -, e⟩ | ⟨-, -, -, e⟩ := stepInit_cases r s <;> rw [e]
    · exact .inl rfl
    · exact .inl rfl
    · exact .inl rfl
    · exact .inr (.inl ⟨rfl, .inl hs⟩)
  | active =>
    rw [gameStep_active hs]
    obtain ⟨-, -, e⟩ | ⟨-, -, e⟩ | ⟨-, -, -, e⟩ | ⟨-, -, -, e⟩ | ⟨-, -, e⟩ := stepActive_courses p r hs <;> rw [e]
    · exact .inl rfl
    · exact .inl rfl
    · exact .inr (.inr ⟨hs, ha, .inl hs, rfl, rfl, rfl, rfl⟩)
    · exact .inr (.inr ⟨hs, ha, .inr rfl, rfl, rfl, rfl, rfl⟩)
    · exact .inl rfl
  | fail =>
    rw [gameStep_fail hs]
    obtain ⟨-, e⟩ | ⟨-, e⟩ := stepFail_cases r s <;> rw [e]
    · exact .inl rfl
    · exact .inr (.inl ⟨rfl, .inr rfl⟩)
  | win =>
    rw [gameStep_win hs]
    obtain ⟨-, e⟩ | ⟨-, e⟩ := stepWin_cases r s <;> rw [e]
    · exact .inl rfl
    · exact .inr (.inl ⟨rfl, .inr rfl⟩)

theorem cycle_stageRule {w : Byte} {s t : State} (h : cycle w s = .next t) : StageRule (Cyc.rnd w) s t := by
  obtain ⟨-, e⟩ | ⟨-, -, -, e⟩ | ⟨-, -, -, e⟩ | ⟨hr, ha, ho, -⟩ | ⟨-, -, -, e⟩ := cycle_cases w s
  · obtain rfl := Host.Outcome.next.inj (e.symm.trans h)
    exact .inr (.inl ⟨rfl, .inr rfl⟩)
  · obtain rfl := Host.Outcome.next.inj (e.symm.trans h)
    rw [wake_eq, ledWrite_eq]
    exact .inr (.inl ⟨rfl, .inr rfl⟩)
  · obtain rfl := Host.Outcome.next.inj (e.symm.trans h)
    exact .inl rfl
  · obtain ⟨_, _, _, rfl⟩ := cycle_tick_eq h hr ha ho
    exact gameStep_stageRule (s := tickStart (!Cyc.btnN w) s) ha _ _
  · obtain rfl := Host.Outcome.next.inj (e.symm.trans h)
    exact .inl rfl

/-- Settles O38: the three courses of `StageRule`, the clearing one denied where neither state is Init. -/
theorem stageGrowsByHitsOnly : Obligations.StageGrowsByHitsOnly := by
  intro w s t h
  obtain hkept | ⟨hzero, hinit⟩ | hhit := cycle_stageRule h
  · exact ⟨.inr (.inl hkept), fun _ _ => hkept.ge⟩
  · exact ⟨.inl hzero, fun hs ht => absurd hinit (not_or.2 ⟨hs, ht⟩)⟩
  · obtain ⟨-, -, -, hstage, -⟩ := id hhit
    exact ⟨.inr (.inr hhit), fun _ _ => hstage ▸ Nat.le_succ _⟩

end Sys2Proof.Machine
end

section
/-! PROOFS. The Game State Machine over runs (44_game_fsm.md R106): Fail and Win last their duration, Init ends within
its bound, and a block with an untouched button falls asleep for good. Each rests on a count of the ticks still to come:
`spinLeft` in Init, `ticksToSleep` in any state. -/

namespace Sys2Proof.Machine

open Sys2Proof

/-! ## Runs in two parts -/

theorem runInputs_append {ws : List Byte} (vs : List Byte) : ∀ {s t : State}, runInputs ws s = .next t →
    runInputs (ws ++ vs) s = runInputs vs t := by
  induction ws with
  | nil =>
    intro s t h
    obtain rfl := Host.Outcome.next.inj h
    rfl
  | cons w ws ih =>
    intro s t h
    obtain ⟨u, hu⟩ := cycle_completes w s
    rw [runInputs_cons hu] at h
    rw [List.cons_append, runInputs_cons hu, ih h]

/-! ## Fail and Win (R100, R101) -/

/-- The ticks a state lasts by its own count: FAIL_TICKS and WIN_TICKS. -/
def duration (P : Params) : GameState → Option Nat
  | .fail => some P.failTicks
  | .win  => some P.winTicks
  | _     => none

theorem duration_eq_some {P : Params} {g : GameState} {d : Nat} (h : duration P g = some d) :
    (g = .fail ∧ P.failTicks = d) ∨ (g = .win ∧ P.winTicks = d) := by
  cases g <;> simp_all [duration]

/-- In Fail and in Win alike the step operation counts up to the duration, and past it runs GAME_INIT. -/
theorem gameStep_of_duration {s : State} {d : Nat} (h : duration s.P s.state = some d) (p : Bool) (r : Nibble) :
    (s.phase + 1 ≤ d ∧ gameStep p r s = { s with phase := s.phase + 1 }) ∨
    (d < s.phase + 1 ∧ gameStep p r s = gameInit r s) := by
  obtain ⟨hs, rfl⟩ | ⟨hs, rfl⟩ := duration_eq_some h
  · rw [gameStep_fail hs]
    exact stepFail_cases r s
  · rw [gameStep_win hs]
    exact stepWin_cases r s

/-- A running block in a state that lasts `d` ticks, with an overflow pending. -/
structure CountsTo (d : Nat) (s : State) : Prop where
  awake : s.asleep = false
  pending : s.ovf = true
  lasts : duration s.P s.state = some d

/-- A tick of a state that lasts `d` ticks is counted, or it is the one that exceeds the duration. -/
theorem CountsTo.cycle {d : Nat} {w : Byte} {s t : State} (h : CountsTo d s)
    (hw : Cyc.rst w = false ∧ Cyc.ovfSet w = true) (ht : cycle w s = .next t) :
    (s.phase + 1 ≤ d ∧ CountsTo d t ∧ t.state = s.state ∧ t.phase = s.phase + 1) ∨
    (d < s.phase + 1 ∧ t.state = .init ∧ t.stage = 0) := by
  obtain ⟨hr, hset⟩ := hw
  obtain ⟨_, _, _, rfl⟩ := cycle_tick_eq ht hr h.awake h.pending
  have hlasts : duration (tickStart (!Cyc.btnN w) s).P (tickStart (!Cyc.btnN w) s).state = some d := h.lasts
  unfold tickGame
  obtain ⟨hle, e⟩ | ⟨hlt, e⟩ :=
    gameStep_of_duration hlasts (tickStart (!Cyc.btnN w) s).btn.press (Cyc.rnd w) <;> rw [e]
  · exact .inl ⟨hle, ⟨h.awake, hset, h.lasts⟩, rfl, rfl⟩
  · exact .inr ⟨hlt, rfl, rfl⟩

/-- Ticks within the duration are counted. -/
theorem CountsTo.run {d : Nat} {ws : List Byte} (hws : ∀ w ∈ ws, Cyc.rst w = false ∧ Cyc.ovfSet w = true) :
    ∀ {s : State}, CountsTo d s → s.phase + ws.length ≤ d →
      ∃ t, runInputs ws s = .next t ∧ CountsTo d t ∧ t.state = s.state ∧ t.phase = s.phase + ws.length := by
  induction ws with
  | nil => exact fun h _ => ⟨_, runInputs_nil _, ⟨h.awake, h.pending, h.lasts⟩, rfl, rfl⟩
  | cons w ws ih =>
    intro s h hlen
    rw [List.length_cons] at hlen
    obtain ⟨hw, hrest⟩ := List.forall_mem_cons.1 hws
    obtain ⟨u, hu⟩ := cycle_completes w s
    obtain ⟨-, hcounts, hstate, hphase⟩ | ⟨hlt, -⟩ := h.cycle hw hu
    · obtain ⟨t, ht, hcounts', hstate', hphase'⟩ := ih hrest hcounts (by omega)
      refine ⟨t, (runInputs_cons hu).trans ht, hcounts', hstate'.trans hstate, ?_⟩
      rw [hphase', hphase, List.length_cons]
      omega
    · omega

/-- A state that lasts `d` ticks stays through them and is Init in the tick that exceeds them. -/
theorem CountsTo.ends {d : Nat} {ws : List Byte} {s : State} (h : CountsTo d s)
    (hws : ∀ w ∈ ws, Cyc.rst w = false ∧ Cyc.ovfSet w = true) (hlen : s.phase + ws.length = d + 1)
    (hne : 1 ≤ ws.length) :
    (∀ n, n < ws.length → ∃ t, runInputs (ws.take n) s = .next t ∧ t.state = s.state ∧ t.phase = s.phase + n) ∧
    ∃ t, runInputs ws s = .next t ∧ t.state = .init ∧ t.stage = 0 := by
  constructor
  · intro n hn
    have htake : (ws.take n).length = n := List.length_take_of_le hn.le
    obtain ⟨t, ht, -, hstate, hphase⟩ :=
      CountsTo.run (ws := ws.take n) (fun w hw => hws w (List.mem_of_mem_take hw)) h (by omega)
    exact ⟨t, ht, hstate, htake ▸ hphase⟩
  · obtain rfl | ⟨vs, w, rfl⟩ := ws.eq_nil_or_concat
    · cases hne
    · rw [List.concat_eq_append] at hws hlen ⊢
      rw [List.length_append, List.length_singleton] at hlen
      obtain ⟨hvs, hw⟩ := List.forall_mem_append.1 hws
      obtain ⟨t, ht, hcounts, -, hphase⟩ := CountsTo.run hvs h (by omega)
      obtain ⟨u, hu⟩ := cycle_completes w t
      obtain ⟨hle, -⟩ | ⟨-, hend⟩ := hcounts.cycle (hw w (List.mem_singleton_self w)) hu
      · omega
      · exact ⟨_, (runInputs_append [w] ht).trans (runInputs_cons hu), hend⟩

/-- Settles O45: both clauses are `CountsTo.ends`, with the duration of Fail and of Win. -/
theorem failAndWinEndOnTime : Obligations.FailAndWinEndOnTime := by
  intro s ws ha ho hws
  constructor
  · intro hs hlen hne
    have h : CountsTo s.P.failTicks s := ⟨ha, ho, by rw [hs]; rfl⟩
    exact hs ▸ h.ends hws hlen hne
  · intro hs hlen hne
    have h : CountsTo s.P.winTicks s := ⟨ha, ho, by rw [hs]; rfl⟩
    exact hs ▸ h.ends hws hlen hne

/-! ## Moves on the ring (R90) -/

/-- The moves in direction `d` that bring position `c` to `t`. -/
def ringDist (c t : Nibble) (d : Bool) : Nat := (if d = false then t - c else c - t).toNat

theorem ringDist_lt (c t : Nibble) (d : Bool) : ringDist c t d < 16 := BitVec.isLt _

theorem ringDist_self (c : Nibble) (d : Bool) : ringDist c c d = 0 := by
  simp [ringDist]

/-- A move off the target has the whole ring before it. -/
theorem ringDist_nextPos_self (t : Nibble) (d : Bool) : ringDist (nextPos t d) t d = 15 := by
  cases d
  · simp only [ringDist, nextPos, if_true]
    bv_omega
  · simp only [ringDist, nextPos, Bool.true_eq_false, if_false]
    bv_omega

/-- Any other move is one of the moves to the target. -/
theorem ringDist_nextPos {c t : Nibble} (h : c ≠ t) (d : Bool) :
    ringDist (nextPos c d) t d + 1 = ringDist c t d := by
  cases d
  · simp only [ringDist, nextPos, if_true]
    bv_omega
  · simp only [ringDist, nextPos, Bool.true_eq_false, if_false]
    bv_omega

/-! ## Init (R94) -/

/-- The ticks that STEP.INIT takes before the one that leaves for Active: the rest of the phase, and a full phase for
each further move to the target and for each move of the rounds past it. -/
def spinLeft (s : State) : Nat :=
  (s.P.spinPeriod - s.phase) +
    (s.P.spinPeriod + 1) *
      (ringDist (nextPos s.cursor s.dir) s.target s.dir + 16 * (s.P.passThreshold - s.pass))

/-- The bound of R106 for Init. -/
def initBound (P : Params) : Nat := (P.passThreshold + 1) * 16 * (P.spinPeriod + 1)

theorem spinLeft_lt_initBound (s : State) : spinLeft s < initBound s.P := by
  have hmoves : ringDist (nextPos s.cursor s.dir) s.target s.dir + 16 * (s.P.passThreshold - s.pass) ≤
      15 + 16 * s.P.passThreshold := by
    have := ringDist_lt (nextPos s.cursor s.dir) s.target s.dir
    omega
  have hticks := Nat.mul_le_mul_left (s.P.spinPeriod + 1) hmoves
  have hbound : initBound s.P =
      (s.P.spinPeriod + 1) * (15 + 16 * s.P.passThreshold) + (s.P.spinPeriod + 1) := by
    unfold initBound
    ring
  unfold spinLeft
  omega

/-- STEP.INIT leaves for Active, with `idle` cleared, or is one tick nearer to it. -/
theorem stepInit_progress (r : Nibble) (s : State) :
    ((stepInit r s).state = .active ∧ (stepInit r s).idle = 0) ∨
    ((stepInit r s).state = s.state ∧ spinLeft (stepInit r s) + 1 = spinLeft s) := by
  obtain ⟨hle, e⟩ | ⟨hlt, hm, e⟩ | ⟨hlt, hm, hle, e⟩ | ⟨-, -, -, e⟩ := stepInit_cases r s <;> rw [e]
  · refine .inr ⟨rfl, ?_⟩
    show s.P.spinPeriod - (s.phase + 1) + (s.P.spinPeriod + 1) *
      (ringDist (nextPos s.cursor s.dir) s.target s.dir + 16 * (s.P.passThreshold - s.pass)) + 1 = spinLeft s
    rw [spinLeft]
    omega
  · refine .inr ⟨rfl, ?_⟩
    show s.P.spinPeriod - 0 + (s.P.spinPeriod + 1) *
      (ringDist (nextPos (nextPos s.cursor s.dir) s.dir) s.target s.dir +
        16 * (s.P.passThreshold - s.pass)) + 1 = spinLeft s
    rw [spinLeft, ← ringDist_nextPos hm, Nat.sub_eq_zero_of_le (Nat.le_of_lt_succ hlt), Nat.sub_zero]
    ring
  · refine .inr ⟨rfl, ?_⟩
    show s.P.spinPeriod - 0 + (s.P.spinPeriod + 1) *
      (ringDist (nextPos (nextPos s.cursor s.dir) s.dir) s.target s.dir +
        16 * (s.P.passThreshold - (s.pass + 1))) + 1 = spinLeft s
    have hround : s.P.passThreshold - s.pass = s.P.passThreshold - (s.pass + 1) + 1 := by omega
    rw [spinLeft, hm, ringDist_nextPos_self, ringDist_self, hround,
      Nat.sub_eq_zero_of_le (Nat.le_of_lt_succ hlt), Nat.sub_zero]
    ring
  · exact .inl ⟨rfl, rfl⟩

/-- STEP.INIT does not fall asleep (R94). -/
theorem stepInit_asleep (r : Nibble) (s : State) : (stepInit r s).asleep = s.asleep := by
  obtain ⟨-, e⟩ | ⟨-, -, e⟩ | ⟨-, -, -, e⟩ | ⟨-, -, -, e⟩ := stepInit_cases r s <;> rw [e]

/-- Ticks beyond `spinLeft` end Init: each of them is one of those, or leaves for Active. -/
theorem init_ends {ws : List Byte} (hws : ∀ w ∈ ws, Cyc.rst w = false ∧ Cyc.ovfSet w = true) :
    ∀ {s : State}, s.state = .init → s.asleep = false → s.ovf = true → spinLeft s < ws.length →
      ∃ n t, 1 ≤ n ∧ n ≤ ws.length ∧ runInputs (ws.take n) s = .next t ∧ t.state = .active ∧ t.idle = 0 := by
  induction ws with
  | nil => exact fun _ _ _ h => absurd h (Nat.not_lt_zero _)
  | cons w ws ih =>
    intro s hs ha ho hlt
    obtain ⟨⟨hr, hset⟩, hrest⟩ := List.forall_mem_cons.1 hws
    obtain ⟨u, hu⟩ := cycle_completes w s
    obtain ⟨_, _, _, e⟩ := cycle_tick_eq hu hr ha ho
    have hstart : (tickStart (!Cyc.btnN w) s).state = .init := hs
    rw [tickGame, gameStep_init hstart] at e
    obtain ⟨hactive, hidle⟩ | ⟨hinit, hleft⟩ := stepInit_progress (Cyc.rnd w) (tickStart (!Cyc.btnN w) s)
    · refine ⟨1, u.withInputs [], Nat.le_refl 1, Nat.le_add_left 1 _, runInputs_cons hu, ?_, ?_⟩
      · rw [withInputs_state, e, hactive]
      · rw [withInputs_idle, e, hidle]
    · have hlt' : spinLeft u < ws.length := by
        have hfewer : spinLeft u + 1 = spinLeft s := e ▸ hleft
        rw [List.length_cons] at hlt
        omega
      obtain ⟨n, t, -, hn, ht, hactive, hidle⟩ := ih hrest (by rw [e, hinit, hstart])
        (by rw [e, stepInit_asleep]; exact ha) (by rw [e, hset]) hlt'
      exact ⟨n + 1, t, Nat.le_add_left 1 n, Nat.succ_le_succ hn, (runInputs_cons hu).trans ht, hactive, hidle⟩

/-- Settles O46: the ticks Init has left are fewer than its bound, whatever the registers hold. -/
theorem initEndsWithinItsBound : Obligations.InitEndsWithinItsBound := by
  intro s ws _ hs ha ho hws hlen
  exact init_ends hws hs ha ho (hlen ▸ spinLeft_lt_initBound s)

/-! ## The way to sleep (R99, R106) -/

/-- The ticks without a press event that bring an awake block to sleep, at most: those left of its state, and those of
the states that follow. -/
def ticksToSleep (s : State) : Nat :=
  match s.state with
  | .init   => spinLeft s + 1 + (s.P.idleTimeout + 1)
  | .active => s.P.idleTimeout + 1 - s.idle
  | .fail   => s.P.failTicks - s.phase + 1 + (initBound s.P + (s.P.idleTimeout + 1))
  | .win    => s.P.winTicks - s.phase + 1 + (initBound s.P + (s.P.idleTimeout + 1))

theorem ticksToSleep_init {s : State} (hs : s.state = .init) :
    ticksToSleep s = spinLeft s + 1 + (s.P.idleTimeout + 1) := by rw [ticksToSleep, hs]

theorem ticksToSleep_active {s : State} (hs : s.state = .active) :
    ticksToSleep s = s.P.idleTimeout + 1 - s.idle := by rw [ticksToSleep, hs]

theorem ticksToSleep_of_duration {s : State} {d : Nat} (h : duration s.P s.state = some d) :
    ticksToSleep s = d - s.phase + 1 + (initBound s.P + (s.P.idleTimeout + 1)) := by
  obtain ⟨hs, rfl⟩ | ⟨hs, rfl⟩ := duration_eq_some h <;> rw [ticksToSleep, hs]

/-- A tick of Init is one of the ticks to sleep. -/
theorem stepInit_ticksToSleep (r : Nibble) {s : State} (hs : s.state = .init) :
    ticksToSleep (stepInit r s) < ticksToSleep s := by
  have hP : (stepInit r s).P = s.P := by
    obtain ⟨-, hinst, -⟩ := gameStep_frame false r s
    rw [gameStep_init hs] at hinst
    rw [State.P_eq, hinst]
  rw [ticksToSleep_init hs]
  obtain ⟨hactive, hidle⟩ | ⟨hinit, hleft⟩ := stepInit_progress r s
  · rw [ticksToSleep_active hactive, hP]
    omega
  · rw [ticksToSleep_init (hinit.trans hs), hP]
    omega

/-- A tick of Active without a press event falls asleep or is one of the ticks to sleep. -/
theorem stepActive_ticksToSleep (r : Nibble) {s : State} (hs : s.state = .active) :
    (stepActive false r s).asleep = true ∨ ticksToSleep (stepActive false r s) < ticksToSleep s := by
  obtain ⟨-, hle, e⟩ | ⟨-, -, e⟩ | ⟨hp, -⟩ | ⟨hp, -⟩ | ⟨hp, -⟩ := stepActive_courses false r hs
  · right
    have hactive : (stepActive false r s).state = .active := e ▸ hs
    rw [ticksToSleep_active hs, ticksToSleep_active hactive, e]
    show s.P.idleTimeout + 1 - (s.idle + 1) < _
    omega
  · exact .inl (by rw [e])
  all_goals cases hp

/-- A tick of Fail or Win is one of the ticks to sleep. -/
theorem gameStep_ticksToSleep_of_duration {s : State} {d : Nat} (hd : duration s.P s.state = some d) (p : Bool)
    (r : Nibble) : ticksToSleep (gameStep p r s) < ticksToSleep s := by
  rw [ticksToSleep_of_duration hd]
  obtain ⟨hle, e⟩ | ⟨-, e⟩ := gameStep_of_duration hd p r <;> rw [e]
  · rw [ticksToSleep_of_duration (s := { s with phase := s.phase + 1 }) hd]
    show d - (s.phase + 1) + 1 + (initBound s.P + (s.P.idleTimeout + 1)) < _
    omega
  · have hbound : spinLeft (gameInit r s) < initBound s.P := spinLeft_lt_initBound (gameInit r s)
    rw [ticksToSleep_init (gameInit_state r s)]
    show spinLeft (gameInit r s) + 1 + (s.P.idleTimeout + 1) < _
    omega

/-- A step operation without a press event falls asleep or is one of the ticks to sleep. -/
theorem gameStep_ticksToSleep (r : Nibble) (s : State) :
    (gameStep false r s).asleep = true ∨ ticksToSleep (gameStep false r s) < ticksToSleep s := by
  cases hs : s.state with
  | init => exact .inr (gameStep_init hs false r ▸ stepInit_ticksToSleep r hs)
  | active => exact gameStep_active hs false r ▸ stepActive_ticksToSleep r hs
  | fail => exact .inr (gameStep_ticksToSleep_of_duration (d := s.P.failTicks) (by rw [hs]; rfl) false r)
  | win => exact .inr (gameStep_ticksToSleep_of_duration (d := s.P.winTicks) (by rw [hs]; rfl) false r)

/-! ## An untouched button -/

/-- A released filter stays released under a released button (R70). -/
theorem debounce_released {th : Nat} {btn : ButtonState} (hth : 1 ≤ th) (hle : btn.cnt ≤ th) (h : btn.filt = false) :
    (btn.debounce th false).filt = false := by
  refine debounce_filt_eq_of_pos h ?_
  rw [Bool.not_false, ticksTo_true, debounceCount_false]
  omega

/-- What the host presents to an untouched block: no reset, no wake edge, no press, and ticks forever. -/
structure Untouched (ws : Nat → Byte) : Prop where
  ticks : HTicksForever ws
  quiet : ∀ n, Cyc.rst (ws n) = false ∧ Cyc.wake (ws n) = false ∧ Cyc.btnN (ws n) = true

theorem Untouched.shift {ws : Nat → Byte} (h : Untouched ws) (n : Nat) : Untouched fun k => ws (n + k) where
  ticks k := by
    obtain ⟨m, hm, hset⟩ := h.ticks (n + k)
    obtain ⟨j, rfl⟩ := Nat.exists_eq_add_of_le hm
    exact ⟨k + j, Nat.le_add_right k j, by simpa only [Nat.add_assoc] using hset⟩
  quiet k := h.quiet (n + k)

/-- The first `n` words of a sequence take the machine from `s` to `t`. -/
def Reaches (ws : Nat → Byte) (n : Nat) (s t : State) : Prop := runInputs ((List.range n).map ws) s = .next t

theorem Reaches.trans {ws : Nat → Byte} {n m : Nat} {s t u : State} (h : Reaches ws n s t)
    (h' : Reaches (fun k => ws (n + k)) m t u) : Reaches ws (n + m) s u := by
  rw [Reaches, List.range_add, List.map_append, List.map_map, runInputs_append _ h]
  exact h'

/-- A block that meets the invariants and reads released. -/
def Settled (s : State) : Prop := Inv s ∧ s.btn.filt = false

/-- A tick of an untouched block falls asleep or is one of the ticks to sleep, and the block still reads released. -/
theorem tick_untouched {w : Byte} {s t : State} (h : Settled s) (ha : s.asleep = false) (ho : s.ovf = true)
    (hr : Cyc.rst w = false) (hb : Cyc.btnN w = true) (ht : cycle w s = .next t) :
    Settled t ∧ (t.asleep = true ∨ ticksToSleep t < ticksToSleep s) := by
  obtain ⟨hinv, hfilt⟩ := h
  have hreleased := debounce_released s.inst.one_le_th hinv.cnt_le hfilt
  refine ⟨⟨hinv.cycle ht, ?_⟩, ?_⟩
  · obtain rfl := Host.Outcome.next.inj ((cycle_tick hr ha ho).symm.trans ht)
    rw [latchOvf_btn, hb]
    obtain ⟨-, e⟩ | ⟨-, e⟩ := tick_btn (rawLevel true) (Cyc.rnd w) s <;> rw [e]
    · rfl
    · exact hreleased
  · have hpress : (tickStart false s).btn.press = false := by
      show ((s.btn.debounce s.P.th false).filt && _) = false
      rw [hreleased, Bool.false_and]
    obtain ⟨_, _, _, rfl⟩ := cycle_tick_eq ht hr ha ho
    rw [hb, Bool.not_true, tickGame, hpress]
    exact gameStep_ticksToSleep (Cyc.rnd w) (tickStart false s)

/-- One cycle is a run of one word. -/
theorem Reaches.one {ws : Nat → Byte} {s t : State} (h : cycle (ws 0) s = .next t) :
    Reaches ws 1 s (t.withInputs []) :=
  runInputs_cons h

theorem Settled.latchOvf {s : State} (h : Settled s) (o : Bool) : Settled (latchOvf o s) := ⟨h.1.latchOvf o, h.2⟩

theorem Settled.withInputs {s : State} (h : Settled s) (ws : List Byte) : Settled (s.withInputs ws) :=
  ⟨h.1.with_ovf_host s.ovf ws s.freeReads, h.2⟩

/-- An awake block polls without any other change until an overflow is pending, at the latest that of cycle `m`. -/
theorem Untouched.reaches_pending {m : Nat} : ∀ {ws : Nat → Byte} {s : State}, Untouched ws →
    Cyc.ovfSet (ws m) = true → Settled s → s.asleep = false →
    ∃ n t, Reaches ws n s t ∧ Settled t ∧ t.asleep = false ∧ t.ovf = true ∧ ticksToSleep t = ticksToSleep s := by
  induction m with
  | zero =>
    intro ws s hw hset h ha
    cases ho : s.ovf with
    | true => exact ⟨0, s.withInputs [], rfl, h.withInputs [], ha, ho, rfl⟩
    | false =>
      exact ⟨1, _, .one (cycle_idle (hw.quiet 0).1 ha ho), (h.latchOvf _).withInputs [], ha, by simp [hset], rfl⟩
  | succ m ih =>
    intro ws s hw hset h ha
    cases ho : s.ovf with
    | true => exact ⟨0, s.withInputs [], rfl, h.withInputs [], ha, ho, rfl⟩
    | false =>
      have hidle := Reaches.one (cycle_idle (hw.quiet 0).1 ha ho)
      obtain ⟨n, t, ht, hpending⟩ :=
        ih (hw.shift 1) (Nat.add_comm m 1 ▸ hset) ((h.latchOvf (Cyc.ovfSet (ws 0))).withInputs []) ha
      exact ⟨1 + n, t, hidle.trans ht, hpending⟩

/-- An untouched block falls asleep, by induction on the ticks to sleep. -/
theorem Untouched.falls_asleep {ws : Nat → Byte} {s : State} (hw : Untouched ws) (h : Settled s) :
    ∃ n t, Reaches ws n s t ∧ t.asleep = true := by
  induction hk : ticksToSleep s using Nat.strong_induction_on generalizing ws s with
  | _ k ih =>
    cases ha : s.asleep with
    | true => exact ⟨0, s.withInputs [], rfl, ha⟩
    | false =>
      obtain ⟨m, -, hset⟩ := hw.ticks 0
      obtain ⟨n, t, hst, ht, hta, hto, hticks⟩ := hw.reaches_pending hset h ha
      obtain ⟨hr, -, hb⟩ := (hw.shift n).quiet 0
      obtain ⟨u, hu⟩ := cycle_completes (ws (n + 0)) t
      have hsu := hst.trans (Reaches.one hu)
      obtain ⟨hsettled, hasleep | hfewer⟩ := tick_untouched ht hta hto hr hb hu
      · exact ⟨n + 1, u.withInputs [], hsu, hasleep⟩
      · obtain ⟨j, v, huv, hv⟩ := ih (ticksToSleep u) (by omega) (hw.shift (n + 1))
          (hsettled.withInputs []) rfl
        exact ⟨n + 1 + j, v, hsu.trans huv, hv⟩

/-- Without a wake edge or a reset a sleeping block sleeps on (R117). -/
theorem asleep_run {ws : List Byte} (hws : ∀ w ∈ ws, Cyc.rst w = false ∧ Cyc.wake w = false) :
    ∀ {s : State}, s.asleep = true → ∃ t, runInputs ws s = .next t ∧ t.asleep = true := by
  induction ws with
  | nil => exact fun h => ⟨_, runInputs_nil _, h⟩
  | cons w ws ih =>
    intro s h
    obtain ⟨⟨hr, hw⟩, hrest⟩ := List.forall_mem_cons.1 hws
    rw [runInputs_cons (cycle_hold hr h hw)]
    exact ih hrest h

/-- Settles O47: it falls asleep in some cycle, and sleeps on through the words after it. -/
theorem untouchedBlockFallsAsleepForGood : Obligations.UntouchedBlockFallsAsleepForGood := by
  intro s ws hinv hfilt hticks hquiet
  have hw : Untouched ws := ⟨hticks, hquiet⟩
  obtain ⟨n, t, ht, hasleep⟩ := hw.falls_asleep ⟨hinv, hfilt⟩
  refine ⟨n, fun m hm => ?_⟩
  obtain ⟨j, rfl⟩ := Nat.exists_eq_add_of_le hm
  have hrest : ∀ w ∈ (List.range j).map fun k => ws (n + k), Cyc.rst w = false ∧ Cyc.wake w = false := by
    intro w hmem
    obtain ⟨k, -, rfl⟩ := List.mem_map.1 hmem
    obtain ⟨hr, hwake, -⟩ := hquiet (n + k)
    exact ⟨hr, hwake⟩
  obtain ⟨u, hu, hua⟩ := asleep_run hrest hasleep
  exact ⟨u, ht.trans hu, hua⟩

end Sys2Proof.Machine
end

section
/-! PROOFS. The Power Manager (45_power_manager.md R115 to R121): a run of HOLD cycles, what WAKE leaves, the way from
Active to sleep and back, and the edges that end a sleep under H_WAKE_ONCE. -/

namespace Sys2Proof.Machine

open Sys2Proof

/-! ## HOLD (R117, R121) -/

/-- Two overflows are one pending bit (R61). -/
theorem latchOvf_latchOvf (o o' : Bool) (s : State) : latchOvf o' (latchOvf o s) = latchOvf (o || o') s := by
  simp [latchOvf, Bool.or_assoc]

/-- A run of HOLD cycles is one latch of all its overflows. -/
theorem hold_run {ws : List Byte} (hws : ∀ w ∈ ws, Cyc.rst w = false ∧ Cyc.wake w = false) :
    ∀ {s : State}, s.asleep = true →
      runInputs ws s = .next (latchOvf (ws.any Cyc.ovfSet) (s.withInputs [])) := by
  induction ws with
  | nil => exact fun _ => by rw [List.any_nil, latchOvf_false, runInputs_nil]
  | cons w ws ih =>
    intro s ha
    obtain ⟨⟨hr, hw⟩, hrest⟩ := List.forall_mem_cons.1 hws
    calc runInputs (w :: ws) s
      _ = runInputs ws (latchOvf (Cyc.ovfSet w) s) := runInputs_cons (cycle_hold hr ha hw)
      _ = .next (latchOvf (ws.any Cyc.ovfSet) (latchOvf (Cyc.ovfSet w) (s.withInputs []))) := ih hrest ha
      _ = .next (latchOvf ((w :: ws).any Cyc.ovfSet) (s.withInputs [])) := by rw [latchOvf_latchOvf, List.any_cons]

/-- Settles O4: the latch of `hold_run` writes `ovf` alone. -/
theorem holdRunsKeepEverythingButOvf : Obligations.HoldRunsKeepEverythingButOvf :=
  fun _ _ ha hws => hold_run hws ha

/-! ## WAKE (R118) -/

/-- WAKE is GAME_INIT in an awake block, but for the port bytes that its LED write leaves. -/
theorem wake_frame (r : Nibble) (s : State) : ∃ ddr port,
    wake r s = { gameInit r { s with asleep := false } with ddr := ddr, port := port } :=
  ⟨_, _, (wake_eq r s).trans (ledWrite_frame _ _)⟩

/-- The LED that WAKE lights is CURSOR_HOME (R118). -/
theorem wake_pins (r : Nibble) (s : State) : PinsShow (some s.P.cursorHome) (wake r s) := by
  rw [wake_eq, ← cmdIndex_set]
  exact ledWrite_pins _ _

/-- Settles O5: GAME_INIT writes the registers, the LED write the pins, and the latch keeps a pending overflow. -/
theorem wakeRestartsTheGame : Obligations.WakeRestartsTheGame := by
  intro s o r
  have hpins := wake_pins r s
  have hother := wake_other r s
  obtain ⟨ddr, port, e⟩ := wake_frame r s
  rw [exec_wake, e]
  rw [e] at hpins hother
  exact ⟨_, rfl, rfl, rfl, rfl, rfl, rfl, rfl, rfl, rfl, rfl, rfl, rfl, rfl, rfl, hpins, hother, rfl, rfl, rfl, rfl⟩

/-! ## From Active to sleep (R99, R120) -/

/-- A TICK of Active leaves the button debounced and committed: it does not end Fail or Win (R63). -/
theorem cycle_tick_btn_active {w : Byte} {s t : State} (h : cycle w s = .next t) (hr : Cyc.rst w = false)
    (ha : s.asleep = false) (ho : s.ovf = true) (hs : s.state = .active) :
    t.btn = (s.btn.debounce s.P.th (!Cyc.btnN w)).commitPrev := by
  obtain rfl := Host.Outcome.next.inj ((cycle_tick hr ha ho).symm.trans h)
  obtain ⟨⟨hfail | hwin, -⟩, -⟩ | ⟨-, e⟩ := tick_btn (rawLevel (Cyc.btnN w)) (Cyc.rnd w) s
  · cases hs.symm.trans hfail
  · cases hs.symm.trans hwin
  · exact e

/-- A TICK that goes to sleep turns the LEDs off (R99, R102). -/
theorem cycle_tick_pins_asleep {w : Byte} {s t : State} (h : cycle w s = .next t) (hr : Cyc.rst w = false)
    (ha : s.asleep = false) (ho : s.ovf = true) (hta : t.asleep = true) : PinsShow none t := by
  have hshow : PinsShow (displayedLed t) t := by
    obtain rfl := Host.Outcome.next.inj ((cycle_tick hr ha ho).symm.trans h)
    exact pinsShow_displayedLed _ (tickStepped (rawLevel (Cyc.btnN w)) (Cyc.rnd w) s)
  rwa [displayedLed, if_pos hta] at hshow

/-- A running block in Active with an overflow pending, and `ws` are the words of ticks without a press event. -/
structure WaitsThrough (ws : List Byte) (s : State) : Prop where
  active : s.state = .active
  awake : s.asleep = false
  pending : s.ovf = true
  ticks : ∀ w ∈ ws, Cyc.rst w = false ∧ Cyc.ovfSet w = true
  quiet : noPress s.P.th s.btn (ws.map fun w => !Cyc.btnN w) = true

/-- A tick of the wait counts up `idle`; the wait goes on while the count is within IDLE_TIMEOUT, and the next count is
sleep with the LEDs off (R96, R99). -/
theorem WaitsThrough.cycle {w : Byte} {ws : List Byte} {s t : State} (h : WaitsThrough (w :: ws) s)
    (ht : cycle w s = .next t) : t.P = s.P ∧ t.idle = s.idle + 1 ∧
      ((s.idle + 1 ≤ s.P.idleTimeout ∧ WaitsThrough ws t) ∨
        (s.P.idleTimeout < s.idle + 1 ∧ t.state = .active ∧ t.asleep = true ∧ PinsShow none t)) := by
  obtain ⟨⟨hr, hset⟩, hrest⟩ := List.forall_mem_cons.1 h.ticks
  obtain ⟨hpress, hquiet⟩ := Bool.and_eq_true_iff.1 h.quiet
  have hbtn := cycle_tick_btn_active ht hr h.awake h.pending h.active
  have hpins := cycle_tick_pins_asleep ht hr h.awake h.pending
  have hstart : (tickStart (!Cyc.btnN w) s).state = .active := h.active
  have hpress' : (tickStart (!Cyc.btnN w) s).btn.press = false := Eq.mp (Bool.not_eq_true' _) hpress
  obtain ⟨_, _, _, e⟩ := cycle_tick_eq ht hr h.awake h.pending
  rw [tickGame, hpress', gameStep_active hstart] at e
  obtain ⟨-, hle, hm⟩ | ⟨-, hlt, hm⟩ | ⟨hp, -⟩ | ⟨hp, -⟩ | ⟨hp, -⟩ :=
    stepActive_courses false (Cyc.rnd w) hstart
  · rw [hm] at e
    have hquiet' : noPress t.P.th t.btn (ws.map fun w => !Cyc.btnN w) = true := by
      rw [hbtn, e]
      exact hquiet
    exact ⟨e ▸ rfl, e ▸ rfl, .inl ⟨hle, ⟨e ▸ h.active, e ▸ h.awake, e ▸ hset, hrest, hquiet'⟩⟩⟩
  · rw [hm] at e
    have hta : t.asleep = true := e ▸ rfl
    exact ⟨e ▸ rfl, e ▸ rfl, .inr ⟨hlt, e ▸ h.active, hta, hpins hta⟩⟩
  all_goals cases hp

/-- Ticks of the wait up to IDLE_TIMEOUT are counted and do not end it. -/
theorem WaitsThrough.run {us vs : List Byte} : ∀ {s : State}, WaitsThrough (us ++ vs) s →
    s.idle + us.length ≤ s.P.idleTimeout →
    ∃ t, runInputs us s = .next t ∧ WaitsThrough vs t ∧ t.P = s.P ∧ t.idle = s.idle + us.length := by
  induction us with
  | nil => exact fun h _ => ⟨_, runInputs_nil _, ⟨h.active, h.awake, h.pending, h.ticks, h.quiet⟩, rfl, rfl⟩
  | cons u us ih =>
    intro s h hlen
    rw [List.length_cons] at hlen ⊢
    obtain ⟨x, hx⟩ := cycle_completes u s
    obtain ⟨hP, hidle, ⟨-, hwaits⟩ | ⟨hlt, -⟩⟩ := h.cycle hx
    · obtain ⟨t, ht, hwaits', hP', hidle'⟩ := ih hwaits (by rw [hP]; omega)
      exact ⟨t, (runInputs_cons hx).trans ht, hwaits', hP'.trans hP, by omega⟩
    · omega

/-- The tick after IDLE_TIMEOUT ticks of the wait goes to sleep (R99). -/
theorem WaitsThrough.falls_asleep {ws : List Byte} {s : State} (h : WaitsThrough ws s) (hidle : s.idle = 0)
    (hlen : ws.length = s.P.idleTimeout + 1) :
    ∃ t, runInputs ws s = .next t ∧
      t.state = .active ∧ t.asleep = true ∧ t.idle = s.P.idleTimeout + 1 ∧ PinsShow none t := by
  have hne : ws ≠ [] := List.ne_nil_of_length_eq_add_one hlen
  obtain ⟨us, w, rfl⟩ := ws.eq_nil_or_concat'.resolve_left hne
  rw [List.length_append, List.length_singleton] at hlen
  obtain ⟨t, ht, hwaits, hP, hcount⟩ := h.run (by omega)
  obtain ⟨u, hu⟩ := cycle_completes w t
  obtain ⟨-, hcount', ⟨hle, -⟩ | ⟨-, hactive, hasleep, hpins⟩⟩ := hwaits.cycle hu
  · rw [hP] at hle
    omega
  · exact ⟨_, (runInputs_append [w] ht).trans (runInputs_cons hu), hactive, hasleep,
      show u.idle = s.P.idleTimeout + 1 by omega, hpins⟩

/-- Settles O44: `WaitsThrough.run` for the ticks that do not sleep, `WaitsThrough.falls_asleep` for the one that does,
and WAKE from there. -/
theorem sleepInTickTimeoutPlusOne : Obligations.SleepInTickTimeoutPlusOne := by
  intro s ws wk hs ha hidle ho hlen hws hquiet hr hw
  have h : WaitsThrough ws s := ⟨hs, ha, ho, hws, hquiet⟩
  obtain ⟨t, ht, hsleep⟩ := h.falls_asleep hidle hlen
  refine ⟨fun n hn => ?_, ⟨t, ht, hsleep⟩, ?_⟩
  · have htake : (ws.take n).length = n := List.length_take_of_le (by omega)
    obtain ⟨u, hu, hwaits, -, hcount⟩ :=
      WaitsThrough.run (us := ws.take n) (vs := ws.drop n) (by rwa [List.take_append_drop]) (by omega)
    exact ⟨u, hu, hwaits.active, hwaits.awake, by omega⟩
  · obtain ⟨-, hasleep, -⟩ := hsleep
    obtain ⟨ddr, port, e⟩ := wake_frame (Cyc.rnd wk) t
    have hwake := cycle_wake hr hasleep hw
    rw [e] at hwake
    exact ⟨_, (runInputs_append [wk] ht).trans (runInputs_cons hwake), rfl, rfl, rfl, rfl, rfl, rfl, rfl⟩

/-! ## Edges that end a sleep (R119, R137) -/

/-- An unanswered edge seen while asleep came in this sleep or in the cycle that went to sleep. -/
theorem exists_edge_of_unanswered {e : WakeEdge} {p : PinTrace} {asleep : Nat → Bool} {ws : Nat → Byte} (n : Nat)
    (ha : asleep n = true) (h : 1 ≤ p.unanswered e asleep ws n + p.edges e ws n) :
    ∃ k, k ≤ n ∧ 1 ≤ p.edges e ws k ∧ ∀ j, k < j → j ≤ n → asleep j = true := by
  induction n with
  | zero => exact ⟨0, Nat.le_refl 0, by simpa [PinTrace.unanswered] using h, fun j hj hj' => by omega⟩
  | succ n ih =>
    obtain hnow | hbefore : 1 ≤ p.edges e ws (n + 1) ∨ 1 ≤ p.unanswered e asleep ws (n + 1) := by omega
    · exact ⟨n + 1, Nat.le_refl _, hnow, fun j hj hj' => by omega⟩
    · obtain ⟨k, hk, hedge, hsleep⟩ :
          ∃ k, k ≤ n ∧ 1 ≤ p.edges e ws k ∧ ∀ j, k < j → j ≤ n → asleep j = true := by
        rw [PinTrace.unanswered] at hbefore
        cases hn : asleep n with
        | true =>
          rw [hn, if_pos rfl] at hbefore
          exact ih hn (by omega)
        | false =>
          rw [hn, if_neg nofun] at hbefore
          exact ⟨n, Nat.le_refl n, hbefore, fun j hj hj' => by omega⟩
      refine ⟨k, Nat.le_succ_of_le hk, hedge, fun j hj hj' => ?_⟩
      obtain rfl | hlt := Nat.eq_or_lt_of_le hj'
      · exact ha
      · exact hsleep j hj (Nat.le_of_lt_succ hlt)

/-- A sleeping block leaves sleep without a reset only by WAKE (R117, R118). -/
theorem wake_of_leaves_sleep {w : Byte} {s t : State} (h : cycle w s = .next t) (ha : s.asleep = true)
    (ht : t.asleep = false) (hr : Cyc.rst w = false) : Cyc.wake w = true := by
  by_contra hw
  obtain rfl := Host.Outcome.next.inj ((cycle_hold hr ha (Bool.eq_false_of_not_eq_true hw)).symm.trans h)
  cases ha.symm.trans ht

/-- WAKE and RESET both leave a sleeping block awake in Init (R118, R140). -/
theorem cycle_ends_sleep {w : Byte} {s t : State} (h : cycle w s = .next t) (ha : s.asleep = true)
    (hw : Cyc.wake w = true ∨ Cyc.rst w = true) : t.asleep = false ∧ t.state = .init := by
  cases hr : Cyc.rst w with
  | true =>
    obtain rfl := Host.Outcome.next.inj ((cycle_reset hr).symm.trans h)
    exact ⟨rfl, rfl⟩
  | false =>
    obtain rfl := Host.Outcome.next.inj ((cycle_wake hr ha (hw.resolve_right (by simp [hr]))).symm.trans h)
    obtain ⟨hinit, hawake, -⟩ := wake_restarts (Cyc.rnd w) s
    exact ⟨hawake, hinit⟩

/-- Settles O49: the WAKE that ends a sleep answers an edge of it (`never_without`), and the answer to an edge seen
asleep ends the sleep (`every_edge`). -/
theorem wakeOnceEndsEachSleep : Obligations.WakeOnceEndsEachSleep := by
  intro e p ws st hrun hhost
  refine ⟨fun n ha hawake hr => ?_, fun n ha hedge => ?_⟩
  · have hwake := wake_of_leaves_sleep (hrun n) ha hawake hr
    exact ⟨hwake, exists_edge_of_unanswered n ha (hhost.never_without n ha hwake)⟩
  · obtain ⟨m, hnm, hsleep, hends⟩ := hhost.every_edge n ha hedge
    exact ⟨m + 1, Nat.lt_succ_of_le hnm, fun k hk hk' => hsleep k hk (Nat.le_of_lt_succ hk'),
      cycle_ends_sleep (hrun m) (hsleep m hnm (Nat.le_refl m)) hends⟩

end Sys2Proof.Machine
end

section
/-! PROOFS. Exceptions (60_exceptions.md R125, R152): there are none. The word a step fetches is decoded to an operation
whatever it is (`step_eq`, R51), and every operation answers a next state (`exec_sameHost`). -/

namespace Sys2Proof.Machine

open Sys2Proof

theorem exec_completes (i : Instr) (s : State) : ∃ t, exec i s = .next t := by
  obtain ⟨t, ht, -⟩ := exec_sameHost i s
  exact ⟨t, ht⟩

theorem step_completes (s : State) : ∃ t, step s = .next t := by
  rw [step_eq]
  exact cycle_completes (fetch s).1 (fetch s).2

/-- Settles O13: `exec` completes in each of its arms, and a step is the cycle of the fetched word. -/
theorem everyOperationAndStepCompletes : Obligations.EveryOperationAndStepCompletes :=
  ⟨exec_completes, step_completes⟩

end Sys2Proof.Machine
end

section
/-! PROOFS. Reset and hazards (70_reset_and_hazards.md R140 to R150): what a run from RESET depends on, the cycles around
sleep that take no tick, and the counters against the widths of their registers. -/

namespace Sys2Proof.Machine

open Sys2Proof

/-! ## Runs from RESET (R140 to R142) -/

/-- RESET leaves the table of R28 and, of the state before it, only what the host and the instance own. -/
theorem reset_eq_resetOf (r : Nibble) (s : State) :
    reset r s = { State.resetOf s.inst r with inputs := s.inputs, freeReads := s.freeReads } := rfl

/-- Settles O2: both runs go on from the same state of `reset_eq_resetOf`. -/
theorem runFromResetForgetsThePast : Obligations.RunFromResetForgetsThePast := by
  rintro _ s t ⟨w, ws, rfl, hr⟩ hinst hfree
  have hreset : reset (Cyc.rnd w) (s.withInputs ws) = reset (Cyc.rnd w) (t.withInputs ws) := by
    simp only [reset_eq_resetOf, withInputs_inst, withInputs_inputs, withInputs_freeReads, hinst, hfree]
  rw [runInputs_cons_run (cycle_reset hr), runInputs_cons_run (cycle_reset hr), hreset]

/-! ## No tick in the WAKE cycle, none after the tick that goes to sleep (R149) -/

/-- A sleeping block acknowledges no overflow, whatever the word. -/
theorem ovfClr_of_asleep {s : State} (ha : s.asleep = true) (w : Byte) : ovfClr w s = false := by
  rw [ovfClr_eq, ha, Bool.not_true, Bool.and_false, Bool.false_and]

/-- A running block that is not reset acknowledges exactly a pending overflow. -/
theorem ovfClr_of_running {w : Byte} {s : State} (hr : Cyc.rst w = false) (ha : s.asleep = false) :
    ovfClr w s = s.ovf := by
  rw [ovfClr_eq, hr, ha, Bool.not_false, Bool.true_and, Bool.true_and]

@[simp] theorem wake_phase (r : Nibble) (s : State) : (wake r s).phase = 0 := by
  obtain ⟨ddr, port, e⟩ := wake_frame r s
  rw [e]; rfl

/-- A running block falls asleep only with an overflow pending, in a TICK: IDLE keeps it running (R62). -/
theorem ovf_of_falls_asleep {w : Byte} {s t : State} (h : cycle w s = .next t) (hr : Cyc.rst w = false)
    (ha : s.asleep = false) (hta : t.asleep = true) : s.ovf = true := by
  by_contra ho
  obtain rfl := Host.Outcome.next.inj ((cycle_idle hr ha (Bool.eq_false_of_not_eq_true ho)).symm.trans h)
  cases ha.symm.trans hta

/-- Settles O6: WAKE leaves a running block in Init at phase 0 with the overflow still pending, and a block that a TICK
put to sleep takes no tick. -/
theorem noTickInWakeNorAfterSleep : Obligations.NoTickInWakeNorAfterSleep := by
  refine fun w s t h hr => ⟨fun ha hw => ?_, fun ha hta => ?_⟩
  · obtain ⟨hawake, hinit⟩ := cycle_ends_sleep h ha (.inl hw)
    obtain rfl := Host.Outcome.next.inj ((cycle_wake hr ha hw).symm.trans h)
    refine ⟨ovfClr_of_asleep ha w, hinit, ?_, ?_, fun w' hr' => ovfClr_of_running hr' hawake⟩
    · rw [latchOvf_phase, wake_phase]
    · rw [latchOvf_ovf, wake_ovf]
  · exact ⟨(ovfClr_of_running hr ha).trans (ovf_of_falls_asleep h hr ha hta), ovfClr_of_asleep hta⟩

/-! ## Counters against their registers (R150, R6 item 8) -/

theorem Inv.phase_le_max {s : State} (h : Inv s) :
    s.phase ≤ max (max s.P.spinPeriod s.P.basePeriod) (max s.P.failTicks s.P.winTicks) := by
  have hphase := h.phase_le
  cases hs : s.state <;> simp only [hs] at hphase
  case init => exact hphase.trans (le_max_of_le_left (le_max_left _ _))
  case active => exact hphase.trans (le_max_of_le_left (le_max_right _ _))
  case fail => exact hphase.trans (le_max_of_le_right (le_max_left _ _))
  case win => exact hphase.trans (le_max_of_le_right (le_max_right _ _))

theorem Inv.stage_le_succ {s : State} (h : Inv s) : s.stage ≤ s.P.maxStage + 1 := by
  by_cases hs : s.state = .win
  · exact (h.stage_win hs).le
  · exact (h.stage_le hs).trans (Nat.le_succ _)

/-- A running block in Active has reached neither the stage of a win nor the idle count of sleep. -/
theorem Inv.stage_idle_le_of_running_active {s : State} (h : Inv s) (hs : s.state = .active)
    (ha : s.asleep = false) : s.stage ≤ s.P.maxStage ∧ s.idle ≤ s.P.idleTimeout := by
  have hb := h.gameInv.bounds
  simp only [StateBounds, hs, ha] at hb
  obtain ⟨hstage, hidle, -⟩ := hb
  exact ⟨hstage, hidle⟩

/-- Settles O42: each bound of the invariants is below the power of two that WF_PARAMS gives its register. -/
theorem countersFitTheirRegisters : Obligations.CountersFitTheirRegisters := by
  intro s h
  obtain ⟨hidleW, hphaseW, hstageW, hpassW, hcntW⟩ := s.inst.widths
  refine ⟨h.stage_le_succ.trans_lt hstageW, (Nat.succ_le_succ h.phase_le_max).trans_lt hphaseW,
    (Nat.succ_le_succ h.pass_le).trans_lt hpassW, h.cnt_le.trans_lt hcntW, h.idle_le.trans_lt hidleW,
    fun hs ha => ?_⟩
  obtain ⟨hstage, hidle⟩ := h.stage_idle_le_of_running_active hs ha
  exact ⟨(Nat.succ_le_succ hstage).trans_lt hstageW, (Nat.succ_le_succ hidle).trans_lt hidleW⟩

end Sys2Proof.Machine
end
